-- ==== Sys2Proof/Word.lean ====
section
/-! DEFINITION. The word types of the machine: the byte and the 16-bit address (R9, R11 of 00_scope.md). -/

namespace Sys2Proof

/-- A byte, the one data width of the machine (R9, R64). -/
abbrev Byte := BitVec 8

/-- A 16-bit address, and the width of PC (R9, R60). -/
abbrev Addr := BitVec 16

end Sys2Proof
end

