-- ==== Sys2Proof/Config.lean ====
section
/-! DEFINITION. What a product of the family fixes (the parameters of R6, R7, R8 and R75) as plain data, and the
free values: constants without a body for what the spec leaves unspecified. -/

namespace Sys2Proof

/-- `STP_MODE` (R6): whether STP stops the oscillator or acts as NOP. -/
inductive StpMode where
  | stop
  | nop
deriving DecidableEq, Repr

/-- `STACK_PAGE` (R7): the high byte of every stack address, 0x00 or 0x01. -/
inductive StackPage where
  | page0
  | page1
deriving DecidableEq, Repr

/-- `ZP_PTR_WRAP` (R121, D3): where the second byte of a zero-page word whose first byte is at 0x00FF lies.
`unstated` is the model's own fourth setting (DESIGN CHOICE, log 5): the product does not say, and the second byte
is at 0x0000 or at 0x0100 by the free choice `Config.zpPointerCarries`; safe, every claim must hold for both. -/
inductive ZpPtrWrap where
  | wrap
  | carry
  | refuse
  | unstated
deriving DecidableEq, Repr

/-- `RESET_PC` (R8, R341, D5): a constant start address, or the vector address it is read from, low byte first. -/
inductive ResetPc where
  | fixed (start : Addr)
  | vector (v : Addr)
deriving DecidableEq, Repr

/-- One hardware interrupt source of `IRQ_SOURCES` (R305). -/
structure IrqSource where
  priority : Nat
  vector : Addr
  reqAddr : Addr
  reqBit : Fin 8
  enAddr : Addr
  enBit : Fin 8
  external : Bool
deriving DecidableEq, Repr

/-- The class `MEMORY_MAP` gives an address (R75, D8): RAM, ROM, unmapped, or a device register of one of the kinds
the spec describes. -/
inductive AddrKind where
  /-- Reads as last written (R75). -/
  | ram
  /-- A write is ignored and is not an error (R75). -/
  | rom
  /-- A device register that holds a byte: the interrupt request and enable registers (R306 to R308). -/
  | control
  /-- A port latch whose direction register is at `dir` (R72, R233). -/
  | portLatch (dir : Addr)
  /-- A port direction register, which cannot be read (R73, R357). -/
  | portDirection
  /-- Any other device register: its read value is the environment's (R50 (b)). -/
  | external
  /-- Nothing behind the address (R75, U11). -/
  | unmapped
deriving DecidableEq, Repr

/-- A run of addresses of one kind, `base` to `base + size - 1`. -/
structure Region where
  base : Nat
  size : Nat
  kind : AddrKind
deriving DecidableEq, Repr

/-- The parameters of the model (R6, R7, R8, R75), fixed for a run (R51). `outputIsOne` is the value of a direction
bit that makes a port bit an output: the spec names the two directions and not their coding (log 21). -/
structure Product where
  hasMulDiv : Bool
  stpMode : StpMode
  stackPage : StackPage
  zpPtrWrap : ZpPtrWrap
  resetPc : ResetPc
  brkVector : Addr
  brkSharesVector : Bool
  irqSources : List IrqSource
  memoryMap : List Region
  outputIsOne : Bool
deriving DecidableEq, Repr

namespace Config

/-! Free values. Each is opaque: no proof can see it. The first argument is State's draw counter (log 11). -/

/-- N after a decimal ADC or SBC (R182, R184, U2). -/
opaque decimalN : Nat → Bool

/-- V after a decimal ADC or SBC (R182, R184, U2). -/
opaque decimalV : Nat → Bool

/-- Z after a decimal ADC or SBC (R182, R184, U2). -/
opaque decimalZ : Nat → Bool

/-- The result byte of a decimal ADC or SBC of an operand with a nibble above 9 (R182, R184, U3). -/
opaque decimalResult : Nat → Byte

/-- C after a decimal ADC or SBC of an operand with a nibble above 9 (R182, R184, U3). -/
opaque decimalCarry : Nat → Bool

/-- A after DIV by zero or with a quotient above 255 (R195, U4). -/
opaque divQuotient : Nat → Byte

/-- The byte DIV pushes when it divides by zero or the quotient exceeds 255 (R195, U4). -/
opaque divPushed : Nat → Byte

/-- What reading the port direction register at an address gives; the second argument is the number of the access
within the step (R73, U9: two reads need not agree). -/
opaque directionByte : Nat → Nat → Addr → Byte

/-- The device function of R75: what an external device register reads after the CPU wrote it, by the address and the
byte written (log 24). -/
opaque deviceByte : Nat → Addr → Byte → Byte

/-- The request bits of a control register that the CPU wrote 1 while they were 0 (R307, N13; log 22). -/
opaque requestBits : Nat → Addr → Byte

/-- With `ZP_PTR_WRAP` unstated: the second byte of a zero-page word at 0x00FF is at 0x0100 (R121; log 5). -/
opaque zpPointerCarries : Bool

end Config

end Sys2Proof
end

