-- ==== Sys2Proof/Machine/Bits.lean ====
section
/-! DEFINITION. Bit-field, byte-order and extension helpers (R10, R11 of 00_scope.md): a 16-bit value from two
bytes and back, zero and sign extension, one bit of a byte changed, a decimal reading of a byte. -/

namespace Sys2Proof

/-- `hh ++ ll`, the 16-bit value with high byte `hh` and low byte `ll` (R10). -/
def cat16 (hh ll : Byte) : Addr := hh ++ ll

/-- The high byte of a 16-bit value, `w[15:8]` (R10). -/
def hiByte (w : Addr) : Byte := w.extractLsb' 8 8

/-- The low byte of a 16-bit value, `w[7:0]` (R10). -/
def loByte (w : Addr) : Byte := w.extractLsb' 0 8

/-- `zext_16(b)`, the byte as a 16-bit value with high byte 0x00 (R11). -/
def zext16 (b : Byte) : Addr := b.setWidth 16

/-- `sext_16(b)`, the 16-bit two's-complement value of the same signed number (R11). -/
def sext16 (b : Byte) : Addr := b.signExtend 16

/-- The byte whose only bit set is bit `i`, `1 << i` (0 for `i > 7`). -/
def bitMask (i : Nat) : Byte := 1#8 <<< i

/-- `b` with bit `i` made 1 (R232). -/
def setBit (b : Byte) (i : Nat) : Byte := b ||| bitMask i

/-- `b` with bit `i` made 0 (R231). -/
def clearBit (b : Byte) (i : Nat) : Byte := b &&& ~~~bitMask i

/-- The low nibble of a byte, `b[3:0]`. -/
def loNibble (b : Byte) : Nat := b.toNat % 16

/-- The high nibble of a byte, `b[7:4]`. -/
def hiNibble (b : Byte) : Nat := b.toNat / 16

/-- Both nibbles of the byte are decimal digits (R182). -/
def validBcd (b : Byte) : Bool := hiNibble b ≤ 9 && loNibble b ≤ 9

/-- `dec(b)`, the number the two decimal digits of a byte stand for (R182). -/
def decOfByte (b : Byte) : Nat := 10 * hiNibble b + loNibble b

/-- `bcd(k)`, the two decimal digits of `k` for `0 ≤ k ≤ 99` (R182). -/
def byteOfDec (k : Nat) : Byte := BitVec.ofNat 8 (16 * (k / 10) + k % 10)

end Sys2Proof
end

