-- ==== Sys2Proof/Machine/Product.lean ====
section
/-! DEFINITION. What the parameters of a product say: the class of an address, the stack page byte, the request bits
of a register; and the product the reset state is built with (log 3). -/

namespace Sys2Proof.Machine

/-- The product of `State.reset`: the parameters of the spec's test conventions (95_test_vectors.md: STACK_PAGE 0x01,
HAS_MULDIV, STP_MODE stop, BRK_VECTOR 0xFFDC, every address RAM), the spec's illustration 0xC000 for RESET_PC (D5),
no interrupt source (D7: an empty list is legal). DESIGN CHOICE, log 2, log 3 and log 5. -/
def Product.standard : Product where
  hasMulDiv := true
  stpMode := .stop
  stackPage := .page1
  zpPtrWrap := .unstated
  resetPc := .fixed 0xC000
  brkVector := 0xFFDC
  brkSharesVector := false
  irqSources := []
  memoryMap := [⟨0, 65536, .ram⟩]
  outputIsOne := true

/-- Whether an address lies in a region. -/
def Region.holds (r : Region) (a : Addr) : Bool := r.base ≤ a.toNat && a.toNat < r.base + r.size

/-- The kind the first region holding `a` gives it; an address in no region is unmapped (R75, D8). -/
def kindIn (a : Addr) : List Region → AddrKind
  | [] => .unmapped
  | r :: rs => if Region.holds r a then r.kind else kindIn a rs

/-- `MEMORY_MAP` at an address (R75). -/
def kindAt (p : Product) (a : Addr) : AddrKind := kindIn a p.memoryMap

/-- The high byte of every stack address (R7, R63). -/
def stackPageByte (p : Product) : Byte :=
  match p.stackPage with
  | .page0 => 0x00
  | .page1 => 0x01

/-- The numbers of the interrupt request bits that lie in the byte at `a` (R305, R306). -/
def requestBitsAt (p : Product) (a : Addr) : List Nat :=
  (p.irqSources.filter fun k => k.reqAddr = a).map fun k => k.reqBit.val

/-- The numbers of the interrupt enable bits that lie in the byte at `a` (R305, R308). -/
def enableBitsAt (p : Product) (a : Addr) : List Nat :=
  (p.irqSources.filter fun k => k.enAddr = a).map fun k => k.enBit.val

/-- The byte with exactly the listed bits set. -/
def maskOf : List Nat → Byte
  | [] => 0
  | i :: is => bitMask i ||| maskOf is

/-- No two sources share a priority: R305 asks for a total order. -/
def distinctPriorities : List IrqSource → Bool
  | [] => true
  | k :: ks => ks.all (fun j => j.priority != k.priority) && distinctPriorities ks

/-- `v` is the vector of the lowest-priority source of the list. -/
def isLowestVector (v : Addr) (ks : List IrqSource) : Bool :=
  ks.any fun k => k.vector = v && ks.all fun j => k.priority ≤ j.priority

/-- What the spec asks of a product's parameters: regions inside the 65536 addresses (R60), priorities a total order,
request and enable bits in bytes that hold a value (RAM or a control register, R305 to R308), the BRK vector shared
with the lowest-priority source when BRK_SHARES_VECTOR (R281), and a port latch's direction register a direction
register (R72, R73). No rule of the step depends on it. -/
def Product.wf (p : Product) : Bool :=
  p.memoryMap.all (fun r => r.base + r.size ≤ 65536) &&
  distinctPriorities p.irqSources &&
  p.irqSources.all (fun k =>
    (kindAt p k.reqAddr = .ram || kindAt p k.reqAddr = .control) &&
    (kindAt p k.enAddr = .ram || kindAt p k.enAddr = .control)) &&
  (!p.brkSharesVector || isLowestVector p.brkVector p.irqSources) &&
  p.memoryMap.all (fun r =>
    match r.kind with
    | .portLatch dir => kindAt p dir = .portDirection
    | _ => true)

end Sys2Proof.Machine
end

