-- ==== Sys2Proof/Machine/State.lean ====
section
/-! DEFINITION. The state of the machine as plain data (10_state.md), the ways a step can stop, and the state after
reset (R48, R341). -/

namespace Sys2Proof.Machine

/-- Memory as (address, byte) pairs, addresses strictly rising, no byte equal to what an unlisted address holds
(`unlistedByte`); the form is `Memory.wf`. -/
abbrev Memory := List Host.Cell

/-- The run state of the CPU (R45). -/
inductive RunState where
  | running
  | wait
  | stop
deriving DecidableEq, Repr

/-- The eight flags of PS (R29). -/
inductive Flag where
  | c
  | z
  | i
  | d
  | b
  | t
  | v
  | n
deriving DecidableEq, Repr

/-- The accesses of one step that read memory, in the order a step can make them. A free value read at an access
depends on it, so that two reads in one step need not agree (U9). -/
inductive Access where
  | opcode
  | operand1
  | operand2
  | pointerLo
  | pointerHi
  | data
  | dst
  | pull1
  | pull2
  | pull3
  | vectorLo
  | vectorHi
deriving DecidableEq, Repr

/-- Whose turn it is at an instruction boundary (R50): the CPU's, or a move of the environment. -/
inductive Turn where
  /-- The CPU's step. -/
  | cpu
  /-- Move (a): the request bit of source number `k` of IRQ_SOURCES becomes 1. -/
  | setRequest (k : Nat)
  /-- Move (b): the byte a device address returns when read becomes `v`. -/
  | deviceInput (a : Addr) (v : Byte)
  /-- Move (c): reset. -/
  | reset
deriving DecidableEq, Repr

/-- The machine stops with a fault. -/
inductive Fault where
  /-- Raised by every fetch, read and write of an address MEMORY_MAP leaves unmapped (R75, R302, U11); the spec's
  `refuse(UnmappedAccess(addr))`. Safe: the hardware goes on in a way the spec does not give (log 6). -/
  | unmappedAccess (addr : Addr)
deriving DecidableEq, Repr

/-- The spec gives the step no meaning (R15 (c), R302). -/
inductive Refusal where
  /-- Raised by an arm of `exec` without a meaning. Safe. -/
  | notModelled (mnemonic : String)
  /-- Raised at the fetch of an undefined opcode (R140), those of MUL and DIV among them when HAS_MULDIV is false (R142),
  and by `exec` of MUL and DIV then. Safe: the spec gives the hardware's behaviour no meaning (log 8). -/
  | undefinedOpcode (op : Byte) (pc0 : Addr)
  /-- Raised by JMP indirect through a pointer at an address xxFF (R252, R356). Safe (log 33). -/
  | jmpIndirectPageEnd (p : Addr)
  /-- Raised by a two-byte zero-page operand at 0x00FF when ZP_PTR_WRAP = refuse (R121). Safe (log 5). -/
  | zpPointerAtFF
  /-- Raised when an opcode other than NOP's is fetched after PLP (R350). Safe (log 7). -/
  | plpSuccessor
  /-- Raised when the opcode of SEC, CLC or CLD is fetched after a decimal ADC or SBC (R355). Safe (log 7). -/
  | decimalSuccessor
  /-- Raised when BBC or BBS tests a request bit right after the instruction that wrote it (R352). Safe (log 7). -/
  | requestBitSuccessor
deriving DecidableEq, Repr

/-- The state of the machine. -/
structure State where
  /-- The accumulator A (R21). -/
  a : Byte
  /-- Index register X (R22). -/
  x : Byte
  /-- Index register Y (R23). -/
  y : Byte
  /-- The stack pointer S (R24). -/
  sp : Byte
  /-- The program counter PC (R25). -/
  pc : Addr
  /-- The processor status register PS (R29). -/
  ps : Byte
  /-- Running, Wait or Stop (R45). -/
  runState : RunState
  /-- `lastWasPLP` (R46 (a)). -/
  lastWasPlp : Bool
  /-- `lastWasDecimalArith` (R46 (b)). -/
  lastWasDecimal : Bool
  /-- `lastTouchedRequestBit` (R46 (c)): the address and the numbers of the request bits. -/
  touched : Option (Addr × List Nat)
  /-- Sources whose request bit the last instruction cleared in the write that set their enable bit (R351). -/
  stale : List IrqSource
  /-- The bytes of the address space: RAM, ROM, port and control registers, and at the address of any other device register
  the byte last written to it (R60, R42, R75, log 24). -/
  mem : Memory
  /-- The bytes port pins and device registers other than control registers return when read (R50 (b), R72, R75). -/
  inputs : Memory
  /-- The model's own: CPU steps taken, the argument of the free values (log 11). -/
  draws : Nat
  /-- The model's own: the turns to come; when empty every turn is the CPU's (R50, log 12). -/
  env : List Turn
  /-- The parameters, fixed for a run (R51, log 3). -/
  product : Product
deriving DecidableEq, Repr

/-- The machine right after reset (R48, R341): I is 1, the run state Running, the hazard shadows clear, PC at RESET_PC
(log 2). The spec states no value for A, X, Y, S and the other flags: 0, DESIGN CHOICE, unsafe (log 1); none for
memory: nothing listed (log 4). -/
def State.reset : State where
  a := 0
  x := 0
  y := 0
  sp := 0
  pc :=
    match Product.standard.resetPc with
    | .fixed start => start
    | .vector _ => 0
  ps := 0x04
  runState := .running
  lastWasPlp := false
  lastWasDecimal := false
  touched := none
  stale := []
  mem := []
  inputs := []
  draws := 0
  env := []
  product := Product.standard

end Sys2Proof.Machine
end

