-- ==== Sys2Proof/Machine/Flags.lean ====
section
/-! DEFINITION. The flags of PS and every flag computation of the spec (R29 to R37, R181 to R184, R205 to R214). -/

namespace Sys2Proof.Machine

/-- The bit of PS a flag is (R29). -/
def flagBit : Flag → Nat
  | .c => 0
  | .z => 1
  | .i => 2
  | .d => 3
  | .b => 4
  | .t => 5
  | .v => 6
  | .n => 7

/-- A flag of a PS byte. -/
def getFlag (ps : Byte) (f : Flag) : Bool := ps.getLsbD (flagBit f)

/-- A PS byte with one flag written, the others unchanged (R12). -/
def putFlag (ps : Byte) (f : Flag) (v : Bool) : Byte :=
  if v then setBit ps (flagBit f) else clearBit ps (flagBit f)

/-- A flag of the machine. -/
def State.flag (s : State) (f : Flag) : Bool := getFlag s.ps f

/-- The machine with one flag written (R12: `N <- b`). -/
def State.setFlag (s : State) (f : Flag) (v : Bool) : State := { s with ps := putFlag s.ps f v }

/-- `setNZ(v)` (R14): N is bit 7 of the byte, Z says that it is 0. -/
def State.setNZ (s : State) (v : Byte) : State := (s.setFlag .n v.msb).setFlag .z (decide (v = 0))

/-- What ADC or SBC yields: the result byte and the flags it writes. -/
structure Arith where
  r : Byte
  n : Bool
  v : Bool
  z : Bool
  c : Bool
deriving DecidableEq, Repr

/-- ADC in binary mode (R181): the sum of two bytes and the carry; V is the signed overflow of the whole sum. -/
def addBinary (a m : Byte) (c : Bool) : Arith :=
  let sum := a.toNat + m.toNat + c.toNat
  let signed := a.toInt + m.toInt + (c.toNat : Int)
  let r := BitVec.ofNat 8 sum
  { r := r, n := r.msb, v := decide (127 < signed) || decide (signed < -128), z := decide (r = 0), c := decide (255 < sum) }

/-- SBC in binary mode (R183): the borrow is the complement of C, and C afterwards says that there was no borrow. -/
def subBinary (a m : Byte) (c : Bool) : Arith :=
  let b : Int := 1 - (c.toNat : Int)
  let d := (a.toNat : Int) - (m.toNat : Int) - b
  let signed := a.toInt - m.toInt - b
  let r := BitVec.ofInt 8 d
  { r := r, n := r.msb, v := decide (127 < signed) || decide (signed < -128), z := decide (r = 0), c := decide (0 ≤ d) }

/-- The outcome of a decimal operation with result `r` and carry `c`: N, V and Z are free (R182, R184, U2; log 9). -/
def decimalOutcome (draw : Nat) (r : Byte) (c : Bool) : Arith :=
  { r := r, n := Config.decimalN draw, v := Config.decimalV draw, z := Config.decimalZ draw, c := c }

/-- ADC in decimal mode (R182): the decimal sum modulo 100; for an operand with a nibble above 9 the result and C are
free too (U3; log 9). -/
def addDecimal (draw : Nat) (a m : Byte) (c : Bool) : Arith :=
  if validBcd a && validBcd m then
    let sum := decOfByte a + decOfByte m + c.toNat
    decimalOutcome draw (byteOfDec (sum % 100)) (decide (99 < sum))
  else decimalOutcome draw (Config.decimalResult draw) (Config.decimalCarry draw)

/-- SBC in decimal mode (R184): the decimal difference modulo 100, C when there is no borrow; free as ADC (U3). -/
def subDecimal (draw : Nat) (a m : Byte) (c : Bool) : Arith :=
  if validBcd a && validBcd m then
    let d := (decOfByte a : Int) - (decOfByte m : Int) - (1 - (c.toNat : Int))
    decimalOutcome draw (byteOfDec (d % 100).toNat) (decide (0 ≤ d))
  else decimalOutcome draw (Config.decimalResult draw) (Config.decimalCarry draw)

/-- ADC by the D flag (R33): `a` the first operand, `m` the second. -/
def State.adcOutcome (s : State) (a m : Byte) : Arith :=
  if s.flag .d then addDecimal s.draws a m (s.flag .c) else addBinary a m (s.flag .c)

/-- SBC by the D flag (R33). -/
def State.sbcOutcome (s : State) (a m : Byte) : Arith :=
  if s.flag .d then subDecimal s.draws a m (s.flag .c) else subBinary a m (s.flag .c)

/-- The flags ADC and SBC write: N, V, Z and C. -/
def State.setArith (s : State) (o : Arith) : State :=
  (((s.setFlag .n o.n).setFlag .v o.v).setFlag .z o.z).setFlag .c o.c

/-- The flags of a comparison of `a` with `m` (R207): N and Z of the difference modulo 256, C when `a ≥ m` unsigned. -/
def State.setCompare (s : State) (a m : Byte) : State :=
  (s.setNZ (a - m)).setFlag .c (decide (m.toNat ≤ a.toNat))

/-- The flags of BIT (R205): N and V are bits 7 and 6 of the memory byte, Z says that `A ∧ M` is 0. -/
def State.setBitTest (s : State) (a m : Byte) : State :=
  ((s.setFlag .n (m.getLsbD 7)).setFlag .v (m.getLsbD 6)).setFlag .z (decide (a &&& m = 0))

/-- A result byte and the bit it shifts into C. -/
structure Shifted where
  r : Byte
  c : Bool
deriving DecidableEq, Repr

/-- ASL (R211): left by one, bit 7 into C, 0 into bit 0. -/
def shiftLeft (v : Byte) : Shifted := { r := v <<< 1, c := v.getLsbD 7 }

/-- LSR (R212): right by one, bit 0 into C, 0 into bit 7. -/
def shiftRight (v : Byte) : Shifted := { r := v >>> 1, c := v.getLsbD 0 }

/-- ROL (R213): left by one through C. -/
def rotateLeft (v : Byte) (c : Bool) : Shifted :=
  { r := (v <<< 1) ||| (if c then 0x01 else 0x00), c := v.getLsbD 7 }

/-- ROR (R214): right by one through C. -/
def rotateRight (v : Byte) (c : Bool) : Shifted :=
  { r := (v >>> 1) ||| (if c then 0x80 else 0x00), c := v.getLsbD 0 }

/-- The flags of a shift or rotate: N and Z of the result, C the bit shifted out (R211 to R214). -/
def State.setShift (s : State) (o : Shifted) : State := (s.setNZ o.r).setFlag .c o.c

/-- RRF (R215): the byte rotated by four places, its nibbles exchanged. -/
def swapNibbles (v : Byte) : Byte := (v <<< 4) ||| (v >>> 4)

end Sys2Proof.Machine
end

