-- ==== Sys2Proof/Machine/Memory.lean ====
section
/-! DEFINITION. Memory as a canonical list: what an unlisted address holds, one byte read, one byte written. -/

namespace Sys2Proof.Machine

/-- What an address that is not listed holds: 0x00 at power-on (the spec states no content of RAM, R48, R52). DESIGN
CHOICE, unsafe (log 4). -/
def unlistedByte : Byte := 0x00

/-- The byte a memory holds at an address. -/
def Memory.get : Memory → Addr → Byte
  | [], _ => unlistedByte
  | (k, v) :: m, a => if k = a.toNat then v else Memory.get m a

/-- The cell listing `v` at `a`, or nothing when that is what an unlisted address holds. -/
def Memory.cell (a : Addr) (v : Byte) : Memory := if v = unlistedByte then [] else [(a.toNat, v)]

/-- The memory with nothing listed at `a`. -/
def Memory.without : Memory → Addr → Memory
  | [], _ => []
  | (k, w) :: m, a => if k = a.toNat then Memory.without m a else (k, w) :: Memory.without m a

/-- The memory with `v` listed at `a`, before the first higher address. -/
def Memory.insert : Memory → Addr → Byte → Memory
  | [], a, v => Memory.cell a v
  | (k, w) :: m, a, v =>
    if k < a.toNat then (k, w) :: Memory.insert m a v else Memory.cell a v ++ (k, w) :: m

/-- The memory with byte `v` at `a`, in canonical form again. -/
def Memory.set (m : Memory) (a : Addr) (v : Byte) : Memory := Memory.insert (Memory.without m a) a v

/-- Every entry lies at an address above `lo` and below 65536, addresses strictly rise, and no entry holds what an
unlisted address holds. -/
def Memory.wfAbove : Option Nat → Memory → Bool
  | _, [] => true
  | lo, (k, v) :: m =>
    (match lo with
      | none => true
      | some l => decide (l < k)) &&
    decide (k < 65536) && (v != unlistedByte) && Memory.wfAbove (some k) m

/-- The canonical form of a memory. -/
def Memory.wf (m : Memory) : Bool := Memory.wfAbove none m

/-- A memory from a list of cells in any order, the last cell of an address deciding (R52: a launch's image). -/
def Memory.ofImage (image : List (Addr × Byte)) : Memory :=
  image.foldl (fun m c => Memory.set m c.1 c.2) []

/-- The byte the machine holds at an address, whatever its kind (RAM, ROM, the contents of a device register). -/
def State.cell (s : State) (a : Addr) : Byte := Memory.get s.mem a

/-- The byte the environment makes a device address return (R50 (b)). -/
def State.input (s : State) (a : Addr) : Byte := Memory.get s.inputs a

/-- The state with byte `v` held at `a`. -/
def State.setCell (s : State) (a : Addr) (v : Byte) : State := { s with mem := Memory.set s.mem a v }

/-- The state in which the environment makes `a` return `v`. -/
def State.setInput (s : State) (a : Addr) (v : Byte) : State := { s with inputs := Memory.set s.inputs a v }

end Sys2Proof.Machine
end

