-- ==== Sys2Proof/Machine/Interrupts.lean ====
section
/-! DEFINITION. Interrupt requests: which sources are pending, which one is acceptable (R305 to R315, R325). -/

namespace Sys2Proof.Machine

/-- The request bit of a source, as the platform holds it (R306, R310: not a CPU access). -/
def State.requested (s : State) (k : IrqSource) : Bool := (s.cell k.reqAddr).getLsbD k.reqBit.val

/-- The enable bit of a source (R308, R310). -/
def State.enabled (s : State) (k : IrqSource) : Bool := (s.cell k.enAddr).getLsbD k.enBit.val

/-- The sources with request and enable bit both 1 (R310). -/
def State.requesting (s : State) : List IrqSource :=
  s.product.irqSources.filter fun k => s.requested k && s.enabled k

/-- The pending set at an instruction boundary: R310, with the stale requests of R351. -/
def State.pending (s : State) : List IrqSource :=
  s.product.irqSources.filter fun k => (s.requested k && s.enabled k) || decide (k ∈ s.stale)

/-- The member of the highest priority (R315, D22). -/
def highestOf : List IrqSource → Option IrqSource
  | [] => none
  | k :: ks =>
    match highestOf ks with
    | none => some k
    | some h => if k.priority < h.priority then some h else some k

/-- The source accepted at this boundary: none while I is 1 (R310); in Stop an external source only (R325, log 16). -/
def State.acceptable (s : State) : Option IrqSource :=
  if s.flag .i then none
  else
    match s.runState with
    | .running => highestOf s.pending
    | .wait => highestOf s.pending
    | .stop => highestOf (s.pending.filter fun k => k.external)

/-- The request bit of a source cleared in the platform's state, on acceptance (R307, R312). -/
def State.clearRequest (s : State) (k : IrqSource) : State :=
  s.setCell k.reqAddr (clearBit (s.cell k.reqAddr) k.reqBit.val)

/-- The request bit of a source set by its hardware (R306). -/
def State.raiseRequest (s : State) (k : IrqSource) : State :=
  s.setCell k.reqAddr (setBit (s.cell k.reqAddr) k.reqBit.val)

end Sys2Proof.Machine
end

