-- ==== Sys2Proof/Machine/Ops.lean ====
section
/-! DEFINITION. The named operations every meaning is written with: results, reading and writing memory through the
memory map, the stack, the start of an instruction, taking an interrupt and returning from one. -/

namespace Sys2Proof.Machine

/-- What an operation yields: a value, or the reason the step has no next state (R15). -/
abbrev Res (α : Type) := Host.Outcome α Fault Refusal

/-- First `r`, then `f` on its value. -/
def andThen {α β : Type} (r : Res α) (f : α → Res β) : Res β :=
  match r with
  | .next a => f a
  | .fault e => .fault e
  | .refused e => .refused e

/-! ### Updates of one field -/

/-- A written. -/
def putA (v : Byte) (s : State) : State := { s with a := v }

/-- X written. -/
def putX (v : Byte) (s : State) : State := { s with x := v }

/-- Y written. -/
def putY (v : Byte) (s : State) : State := { s with y := v }

/-- S written. -/
def putS (v : Byte) (s : State) : State := { s with sp := v }

/-- PS written, all eight flags. -/
def putPs (v : Byte) (s : State) : State := { s with ps := v }

/-- PC written. -/
def State.goto (s : State) (target : Addr) : State := { s with pc := target }

/-- The run state entered (R45). -/
def State.enter (s : State) (r : RunState) : State := { s with runState := r }

/-- `lastWasPLP` set (R354). -/
def State.markPlp (s : State) : State := { s with lastWasPlp := true }

/-- `lastWasDecimalArith` written (R354). -/
def State.markDecimal (s : State) (d : Bool) : State := { s with lastWasDecimal := d }

/-! ### Reading -/

/-- The number of an access within its step. -/
def accessIndex : Access → Nat
  | .opcode => 0
  | .operand1 => 1
  | .operand2 => 2
  | .pointerLo => 3
  | .pointerHi => 4
  | .data => 5
  | .dst => 6
  | .pull1 => 7
  | .pull2 => 8
  | .pull3 => 9
  | .vectorLo => 10
  | .vectorHi => 11

/-- The kind of an address in this product (R75). -/
def State.kind (s : State) (a : Addr) : AddrKind := kindAt s.product a

/-- Something lies behind the address (R75). -/
def State.mapped (s : State) (a : Addr) : Bool := s.kind a != .unmapped

/-- The bits of a port that are outputs, by its direction register (R72). -/
def State.outputBits (s : State) (dir : Addr) : Byte :=
  if s.product.outputIsOne then s.cell dir else ~~~s.cell dir

/-- What reading a mapped address gives (R72, R73, R75): RAM, ROM and control registers the byte held; a port latch the
pin level on input bits and the latch on output bits; a direction register a free value (U9, log 23); any other device
register the environment's byte. Reading changes nothing (log 21). -/
def State.byteAt (s : State) (k : Access) (a : Addr) : Byte :=
  match s.kind a with
  | .ram => s.cell a
  | .rom => s.cell a
  | .control => s.cell a
  | .unmapped => s.cell a
  | .portLatch dir => (s.cell a &&& s.outputBits dir) ||| (s.input a &&& ~~~s.outputBits dir)
  | .portDirection => Config.directionByte s.draws (accessIndex k) a
  | .external => s.input a

/-- `MemRead(a, 1)` (R13). -/
def readByte (k : Access) (a : Addr) (s : State) : Res Byte :=
  if s.mapped a then .next (s.byteAt k a) else .fault (.unmappedAccess a)

/-! ### Writing -/

/-- Which bits of the byte an instruction's write is about, for the hazard shadow of R352: one bit for CLB and SEB, the
whole byte for every other writer. -/
inductive WriteScope where
  | whole
  | bit (i : Nat)
deriving DecidableEq, Repr

/-- The request bits at `a` that a write of this scope concerns (R231, R352, C21). -/
def touchedBits (p : Product) (scope : WriteScope) (a : Addr) : List Nat :=
  match scope with
  | .whole => requestBitsAt p a
  | .bit i => (requestBitsAt p a).filter fun j => j = i

/-- The sources one write moves from requesting and disabled to not requesting and enabled (R351). -/
def staleBy (p : Product) (a : Addr) (old new : Byte) : List IrqSource :=
  p.irqSources.filter fun k =>
    decide (k.reqAddr = a) && decide (k.enAddr = a) &&
    old.getLsbD k.reqBit.val && !new.getLsbD k.reqBit.val &&
    !old.getLsbD k.enBit.val && new.getLsbD k.enBit.val

/-- What a control register holds after a write of `v`: `v`, but a request bit written 1 while 0 is free, since the spec
does not state whether software can set one (R307, N13; log 22). -/
def controlAfterWrite (s : State) (a : Addr) (v : Byte) : Byte :=
  let open_ := maskOf (requestBitsAt s.product a) &&& v &&& ~~~s.cell a
  (v &&& ~~~open_) ||| (Config.requestBits s.draws a &&& open_)

/-- The byte stored at a mapped address by its kind (R75): a ROM write is ignored; a write to a device register the
spec does not describe is handed to its device function: the byte is held as the last one written there, and what the
register then reads is free (log 24). -/
def State.storeAt (s : State) (a : Addr) (v : Byte) : State :=
  match s.kind a with
  | .rom => s
  | .unmapped => s
  | .external => (s.setCell a v).setInput a (Config.deviceByte s.draws a v)
  | .control => s.setCell a (controlAfterWrite s a v)
  | .ram => s.setCell a v
  | .portLatch _ => s.setCell a v
  | .portDirection => s.setCell a v

/-- The shadows after a write at `a` that found byte `old` there: the request bits touched (R352, R354) and the stale
requests (R351). -/
def State.noteWrite (s : State) (scope : WriteScope) (a : Addr) (old : Byte) : State :=
  { s with
    touched :=
      match touchedBits s.product scope a with
      | [] => s.touched
      | b :: bs => some (a, b :: bs)
    stale := s.stale ++ staleBy s.product a old (s.cell a) }

/-- The state after a write to a mapped address. -/
def State.written (s : State) (scope : WriteScope) (a : Addr) (v : Byte) : State :=
  (s.storeAt a v).noteWrite scope a (s.cell a)

/-- `MemWrite(a, 1, v)` (R13). -/
def writeByte (scope : WriteScope) (a : Addr) (v : Byte) (s : State) : Res State :=
  if s.mapped a then .next (s.written scope a v) else .fault (.unmappedAccess a)

/-! ### The stack -/

/-- `stk(p)`, the address of stack slot `p` (R14, R63). -/
def State.stackAddr (s : State) (p : Byte) : Addr := cat16 (stackPageByte s.product) p

/-- `push(v)` (R14): store at the free slot, then S down by one. -/
def push (v : Byte) (s : State) : Res State :=
  andThen (writeByte .whole (s.stackAddr s.sp) v s) fun t => .next (putS (t.sp - 1) t)

/-- `pull()` (R14): S up by one, then read the slot. -/
def pull (k : Access) (s : State) : Res (Byte × State) :=
  andThen (readByte k (s.stackAddr (s.sp + 1)) s) fun v => .next (v, putS (s.sp + 1) s)

/-- A 16-bit value pushed, high byte first (R67). -/
def pushWord (w : Addr) (s : State) : Res State :=
  andThen (push (hiByte w) s) fun t => push (loByte w) t

/-- A 16-bit value pulled, low byte first (R67). -/
def pullWord (k₁ k₂ : Access) (s : State) : Res (Addr × State) :=
  andThen (pull k₁ s) fun lo =>
  andThen (pull k₂ lo.2) fun hi => .next (cat16 hi.1 lo.1, hi.2)

/-! ### Words in memory -/

/-- The two bytes at `lo` and `hi` as a 16-bit value (R66). -/
def readWord (kLo kHi : Access) (lo hi : Addr) (s : State) : Res Addr :=
  andThen (readByte kLo lo s) fun l =>
  andThen (readByte kHi hi s) fun h => .next (cat16 h l)

/-- The address of the second byte of a zero-page word at `p`, `zp_next(p)` (R121, D3; log 5). -/
def zpNext (p : Byte) (s : State) : Res Addr :=
  if p = 0xFF then
    match s.product.zpPtrWrap with
    | .wrap => .next 0x0000
    | .carry => .next 0x0100
    | .refuse => .refused .zpPointerAtFF
    | .unstated => .next (if Config.zpPointerCarries then 0x0100 else 0x0000)
  else .next (zext16 (p + 1))

/-- The word at zero-page address `p`, low byte first (R113, R114, R116, R194). A word at 0x00FF that ZP_PTR_WRAP refuses is
refused before its low byte is read, so also where nothing lies behind 0x00FF: the spec gives both stops and no order (DESIGN
CHOICE, safe, log 41). -/
def readZpWord (p : Byte) (s : State) : Res Addr :=
  andThen (zpNext p s) fun hi => readWord .pointerLo .pointerHi (zext16 p) hi s

/-! ### The start of an instruction -/

/-- `next(n)` from the address of the opcode (R14, R26), modulo 65536 (R27, D1). -/
def State.nextPc (s : State) (n : Nat) : Addr := s.pc + BitVec.ofNat 16 n

/-- The hazard shadows cleared (R354). -/
def State.clearShadows (s : State) : State :=
  { s with lastWasPlp := false, lastWasDecimal := false, touched := none, stale := [] }

/-- The state an n-byte instruction builds its effect on: PC past it (R26), the shadows cleared (R354). -/
def State.begin (s : State) (n : Nat) : State := s.clearShadows.goto (s.nextPc n)

/-! ### Taking an interrupt and returning from one -/

/-- The frame of BRK and of a hardware interrupt: PCH, PCL, then a PS byte (R280, R312). -/
def pushFrame (ret : Addr) (ps : Byte) (s : State) : Res State :=
  andThen (pushWord ret s) fun t => push ps t

/-- The handler address at vector `v`, low byte at the lower address (R69, D6). -/
def readVector (v : Addr) (s : State) : Res Addr := readWord .vectorLo .vectorHi v (v + 1) s

/-- Taking the BRK trap (`brk`, R280, R304) or a hardware interrupt (R312): the frame with the return address and PS
with B = `brk` (R34, R301); then I is 1, B is `brk` (R280, R313, D14), the accepted source's request bit is cleared (R307),
control goes through the vector, the machine runs and the shadows are clear (R354). Every other flag, A, X and Y are as
before (R313, D15). -/
def takeInterrupt (brk : Bool) (ret v : Addr) (accepted : Option IrqSource) (s : State) : Res State :=
  andThen (pushFrame ret (putFlag s.ps .b brk) s) fun t =>
  let u := (t.setFlag .b brk).setFlag .i true
  let w :=
    match accepted with
    | some k => u.clearRequest k
    | none => u
  andThen (readVector v w) fun h => .next ((w.clearShadows.goto h).enter .running)

/-- Hardware interrupt entry for source `k` (R312): the return address is that of the next instruction. -/
def interruptEntry (k : IrqSource) (s : State) : Res State := takeInterrupt false s.pc k.vector (some k) s

/-- Return from interrupt (R271, R318): PS, PCL, PCH pulled; nothing is added to the pulled PC. -/
def returnFromInterrupt (s : State) : Res State :=
  andThen (pull .pull1 s) fun p =>
  andThen (pullWord .pull2 .pull3 p.2) fun w => .next ((putPs p.1 w.2).goto w.1)

end Sys2Proof.Machine
end

