-- ==== Sys2Proof/Machine/Operands.lean ====
section
/-! DEFINITION. The operand forms: the addressing modes that name a byte of memory (R107 to R114), the operand of a
reading instruction, the target of a read-modify-write instruction, and the T-mode destination (R185). -/

namespace Sys2Proof.Machine

/-- The addressing modes with a one-byte operand M in memory (R103, R107 to R114). -/
inductive AddrMode where
  | zp (zz : Byte)
  | zpX (zz : Byte)
  | zpY (zz : Byte)
  | abs (hhll : Addr)
  | absX (hhll : Addr)
  | absY (hhll : Addr)
  | indX (zz : Byte)
  | indY (zz : Byte)
deriving DecidableEq, Repr

/-- The operand of a reading instruction: an immediate byte (R105) or a byte of memory. -/
inductive Operand where
  | imm (nn : Byte)
  | mem (m : AddrMode)
deriving DecidableEq, Repr

/-- The target of a read-modify-write instruction: the accumulator (R106) or a byte of memory (R210). -/
inductive Target where
  | acc
  | mem (m : AddrMode)
deriving DecidableEq, Repr

/-- The length of an instruction in one of these modes (R102). -/
def modeLength : AddrMode → Nat
  | .zp _ => 2
  | .zpX _ => 2
  | .zpY _ => 2
  | .abs _ => 3
  | .absX _ => 3
  | .absY _ => 3
  | .indX _ => 2
  | .indY _ => 2

/-- The length of an instruction with this operand (R102). -/
def operandLength : Operand → Nat
  | .imm _ => 2
  | .mem m => modeLength m

/-- The length of an instruction with this target (R102). -/
def targetLength : Target → Nat
  | .acc => 1
  | .mem m => modeLength m

/-- `ea`, the effective address: sums within the zero page modulo 256 (R108, R109, R113), others modulo 65536 (R111,
R112, R114, R122, D2). -/
def effAddr (m : AddrMode) (s : State) : Res Addr :=
  match m with
  | .zp zz => .next (zext16 zz)
  | .zpX zz => .next (zext16 (zz + s.x))
  | .zpY zz => .next (zext16 (zz + s.y))
  | .abs hhll => .next hhll
  | .absX hhll => .next (hhll + zext16 s.x)
  | .absY hhll => .next (hhll + zext16 s.y)
  | .indX zz => readZpWord (zz + s.x) s
  | .indY zz => andThen (readZpWord zz s) fun p => .next (p + zext16 s.y)

/-- The operand byte (R105, R103: `MemRead(ea, 1)`). -/
def operandByte (o : Operand) (s : State) : Res Byte :=
  match o with
  | .imm nn => .next nn
  | .mem m => andThen (effAddr m s) fun ea => readByte .data ea s

/-- `mx()`, the address of M(X): zero page (R38, G3). -/
def State.mx (s : State) : Addr := zext16 s.x

/-- `dst()` (R185): A, or M(X) when T is 1. -/
def readDst (s : State) : Res Byte := if s.flag .t then readByte .dst s.mx s else .next s.a

/-- `setdst(v)` (R185): A, or M(X) when T is 1; then A is not written. -/
def writeDst (v : Byte) (s : State) : Res State :=
  if s.flag .t then writeByte .whole s.mx v s else .next (putA v s)

/-- A store instruction (R156 to R158): a plain write of `v` at the effective address, no flag. -/
def storeOp (m : AddrMode) (v : Byte) (s : State) : Res State :=
  andThen (effAddr m s) fun ea => writeByte .whole ea v (s.begin (modeLength m))

/-- A load of a register (R154, R155): `put` writes it; N and Z from the byte. -/
def loadOp (put : Byte → State → State) (o : Operand) (s : State) : Res State :=
  andThen (operandByte o s) fun m => .next ((put m (s.begin (operandLength o))).setNZ m)

/-- A T-sensitive operation that keeps its result (AND, ORA, EOR, R185, R201 to R203): operand, then destination read,
then destination written (D26); N and Z from the result. -/
def logicOp (f : Byte → Byte → Byte) (o : Operand) (s : State) : Res State :=
  andThen (operandByte o s) fun m =>
  andThen (readDst s) fun a =>
  andThen (writeDst (f a m) (s.begin (operandLength o))) fun t => .next (t.setNZ (f a m))

/-- ADC and SBC (R181 to R185): `f` computes the result and the flags; D = 1 sets `lastWasDecimalArith` (R354). -/
def arithOp (f : State → Byte → Byte → Arith) (o : Operand) (s : State) : Res State :=
  andThen (operandByte o s) fun m =>
  andThen (readDst s) fun a =>
  andThen (writeDst (f s a m).r (s.begin (operandLength o))) fun t =>
    .next ((t.setArith (f s a m)).markDecimal (s.flag .d))

/-- A comparison of a register with the operand (R208, R209). -/
def compareOp (r : Byte) (o : Operand) (s : State) : Res State :=
  andThen (operandByte o s) fun m => .next ((s.begin (operandLength o)).setCompare r m)

/-- CMP (R207): compares A, or M(X) when T is 1, and stores nothing. -/
def compareDstOp (o : Operand) (s : State) : Res State :=
  andThen (operandByte o s) fun m =>
  andThen (readDst s) fun a => .next ((s.begin (operandLength o)).setCompare a m)

/-- LDA (R151, R152): A, or M(X) when T is 1, takes the operand; N and Z from it. -/
def loadDstOp (o : Operand) (s : State) : Res State :=
  andThen (operandByte o s) fun m =>
  andThen (writeDst m (s.begin (operandLength o))) fun t => .next (t.setNZ m)

/-- A read-modify-write on A or memory (R71, R210): one read, one write of the same address; `f` computes the result
and `fl` writes the flags from the byte read. -/
def modifyOp (f : Byte → Byte) (fl : Byte → State → State) (g : Target) (s : State) : Res State :=
  match g with
  | .acc => .next (fl s.a (putA (f s.a) (s.begin 1)))
  | .mem m =>
    andThen (effAddr m s) fun ea =>
    andThen (readByte .data ea s) fun v =>
    andThen (writeByte .whole ea (f v) (s.begin (modeLength m))) fun t => .next (fl v t)

/-- INC, DEC and COM: N and Z from the result (R186, R187, R204). -/
def modifyNZ (f : Byte → Byte) (g : Target) (s : State) : Res State :=
  modifyOp f (fun v t => t.setNZ (f v)) g s

/-- ASL, LSR, ROL, ROR: N, Z from the result, C the bit shifted out (R211 to R214). -/
def shiftOp (f : Byte → Shifted) (g : Target) (s : State) : Res State :=
  modifyOp (fun v => (f v).r) (fun v t => t.setShift (f v)) g s

/-- CLB and SEB on a zero-page byte (R231 to R233): all eight bits read, one changed, all written back; no flag. -/
def modifyBit (f : Byte → Nat → Byte) (i : Nat) (zz : Byte) (s : State) : Res State :=
  andThen (readByte .data (zext16 zz) s) fun v =>
  writeByte (.bit i) (zext16 zz) (f v i) (s.begin 2)

/-- A register written with a byte that also decides N and Z; a one-byte instruction (transfers, INX and its kin). -/
def implied (put : Byte → State → State) (v : Byte) (s : State) : Res State :=
  .next ((put v (s.begin 1)).setNZ v)

/-- A one-byte instruction that writes one flag (R235). -/
def flagOp (f : Flag) (v : Bool) (s : State) : Res State := .next ((s.begin 1).setFlag f v)

/-- A branch of an n-byte instruction with displacement `rr` (R118, R120, R254): the target is `next(n)` plus the signed
displacement, modulo 65536. -/
def branch (taken : Bool) (n : Nat) (rr : Byte) (s : State) : Res State :=
  .next (if taken then (s.begin n).goto (s.nextPc n + sext16 rr) else s.begin n)

/-- A branch on bit `i` of a zero-page byte (R120, R264, R265): taken when the bit is `want`. -/
def branchOnZpBit (want : Bool) (i : Nat) (zz rr : Byte) (s : State) : Res State :=
  andThen (readByte .data (zext16 zz) s) fun v => branch (v.getLsbD i == want) 3 rr s

/-- What the three forms of JSR share (R266): the address of the instruction's last byte is pushed. -/
def callOp (n : Nat) (s : State) : Res State := pushWord (s.nextPc n - 1) (s.begin n)

end Sys2Proof.Machine
end

