-- ==== Sys2Proof/Machine/Arithmetic.lean ====
section
/-! DEFINITION. Arithmetic: ADC, SBC, INC, DEC, INX, INY, DEX, DEY, MUL, DIV (41_arithmetic.md): the meaning of each instruction. -/

namespace Sys2Proof.Machine

/-- The effect of MUL with M at zero-page address `p` (R193): the unsigned product (D20, log 28), its high byte pushed,
its low byte in A; no flag. -/
def multiplyOp (p : Byte) (s : State) : Res State :=
  andThen (readByte .data (zext16 p) s) fun m =>
  let product := BitVec.ofNat 16 (s.a.toNat * m.toNat)
  andThen (push (hiByte product) (s.begin 2)) fun t => .next (putA (loByte product) t)

/-- Quotient and pushed byte of DIV (R194): the unsigned quotient and the one's complement of the remainder; free when the
divisor is 0 or the quotient exceeds 255 (R195, U4; log 10). -/
def divideOutcome (draw : Nat) (w : Addr) (d : Byte) : Byte × Byte :=
  if d = 0 ∨ 255 < w.toNat / d.toNat then (Config.divQuotient draw, Config.divPushed draw)
  else (BitVec.ofNat 8 (w.toNat / d.toNat), ~~~BitVec.ofNat 8 (w.toNat % d.toNat))

/-- The effect of DIV with the dividend at zero-page address `p` (R194, R195): no flag; S goes down in every case. -/
def divideOp (p : Byte) (s : State) : Res State :=
  andThen (readZpWord p s) fun w =>
  andThen (push (divideOutcome s.draws w s.a).2 (s.begin 2)) fun t =>
    .next (putA (divideOutcome s.draws w s.a).1 t)

/-- `ADC ($zz,X)`: add with carry, binary or decimal by D, into A or M(X) by T (R181, R182, R185). -/
def execAdcIndX (zz : Byte) (s : State) : Res State := arithOp State.adcOutcome (.mem (.indX zz)) s

/-- `ADC $zz`: add with carry, binary or decimal by D, into A or M(X) by T (R181, R182, R185). -/
def execAdcZp (zz : Byte) (s : State) : Res State := arithOp State.adcOutcome (.mem (.zp zz)) s

/-- `ADC #$nn`: add with carry, binary or decimal by D, into A or M(X) by T (R181, R182, R185). -/
def execAdcImm (nn : Byte) (s : State) : Res State := arithOp State.adcOutcome (.imm nn) s

/-- `ADC $hhll`: add with carry, binary or decimal by D, into A or M(X) by T (R181, R182, R185). -/
def execAdcAbs (hhll : Addr) (s : State) : Res State := arithOp State.adcOutcome (.mem (.abs hhll)) s

/-- `ADC ($zz),Y`: add with carry, binary or decimal by D, into A or M(X) by T (R181, R182, R185). -/
def execAdcIndY (zz : Byte) (s : State) : Res State := arithOp State.adcOutcome (.mem (.indY zz)) s

/-- `ADC $zz,X`: add with carry, binary or decimal by D, into A or M(X) by T (R181, R182, R185). -/
def execAdcZpX (zz : Byte) (s : State) : Res State := arithOp State.adcOutcome (.mem (.zpX zz)) s

/-- `ADC $hhll,Y`: add with carry, binary or decimal by D, into A or M(X) by T (R181, R182, R185). -/
def execAdcAbsY (hhll : Addr) (s : State) : Res State := arithOp State.adcOutcome (.mem (.absY hhll)) s

/-- `ADC $hhll,X`: add with carry, binary or decimal by D, into A or M(X) by T (R181, R182, R185). -/
def execAdcAbsX (hhll : Addr) (s : State) : Res State := arithOp State.adcOutcome (.mem (.absX hhll)) s

/-- `SBC ($zz,X)`: subtract with borrow, binary or decimal by D, from A or M(X) by T (R183, R184, R185). -/
def execSbcIndX (zz : Byte) (s : State) : Res State := arithOp State.sbcOutcome (.mem (.indX zz)) s

/-- `SBC $zz`: subtract with borrow, binary or decimal by D, from A or M(X) by T (R183, R184, R185). -/
def execSbcZp (zz : Byte) (s : State) : Res State := arithOp State.sbcOutcome (.mem (.zp zz)) s

/-- `SBC #$nn`: subtract with borrow, binary or decimal by D, from A or M(X) by T (R183, R184, R185). -/
def execSbcImm (nn : Byte) (s : State) : Res State := arithOp State.sbcOutcome (.imm nn) s

/-- `SBC $hhll`: subtract with borrow, binary or decimal by D, from A or M(X) by T (R183, R184, R185). -/
def execSbcAbs (hhll : Addr) (s : State) : Res State := arithOp State.sbcOutcome (.mem (.abs hhll)) s

/-- `SBC ($zz),Y`: subtract with borrow, binary or decimal by D, from A or M(X) by T (R183, R184, R185). -/
def execSbcIndY (zz : Byte) (s : State) : Res State := arithOp State.sbcOutcome (.mem (.indY zz)) s

/-- `SBC $zz,X`: subtract with borrow, binary or decimal by D, from A or M(X) by T (R183, R184, R185). -/
def execSbcZpX (zz : Byte) (s : State) : Res State := arithOp State.sbcOutcome (.mem (.zpX zz)) s

/-- `SBC $hhll,Y`: subtract with borrow, binary or decimal by D, from A or M(X) by T (R183, R184, R185). -/
def execSbcAbsY (hhll : Addr) (s : State) : Res State := arithOp State.sbcOutcome (.mem (.absY hhll)) s

/-- `SBC $hhll,X`: subtract with borrow, binary or decimal by D, from A or M(X) by T (R183, R184, R185). -/
def execSbcAbsX (hhll : Addr) (s : State) : Res State := arithOp State.sbcOutcome (.mem (.absX hhll)) s

/-- `INC A`: plus one; N, Z (R186). -/
def execIncAcc (s : State) : Res State := modifyNZ (fun v => v + 1) .acc s

/-- `INC $zz`: plus one; N, Z (R186). -/
def execIncZp (zz : Byte) (s : State) : Res State := modifyNZ (fun v => v + 1) (.mem (.zp zz)) s

/-- `INC $hhll`: plus one; N, Z (R186). -/
def execIncAbs (hhll : Addr) (s : State) : Res State := modifyNZ (fun v => v + 1) (.mem (.abs hhll)) s

/-- `INC $zz,X`: plus one; N, Z (R186). -/
def execIncZpX (zz : Byte) (s : State) : Res State := modifyNZ (fun v => v + 1) (.mem (.zpX zz)) s

/-- `INC $hhll,X`: plus one; N, Z (R186). -/
def execIncAbsX (hhll : Addr) (s : State) : Res State := modifyNZ (fun v => v + 1) (.mem (.absX hhll)) s

/-- `DEC A`: minus one; N, Z (R187). -/
def execDecAcc (s : State) : Res State := modifyNZ (fun v => v - 1) .acc s

/-- `DEC $zz`: minus one; N, Z (R187). -/
def execDecZp (zz : Byte) (s : State) : Res State := modifyNZ (fun v => v - 1) (.mem (.zp zz)) s

/-- `DEC $hhll`: minus one; N, Z (R187). -/
def execDecAbs (hhll : Addr) (s : State) : Res State := modifyNZ (fun v => v - 1) (.mem (.abs hhll)) s

/-- `DEC $zz,X`: minus one; N, Z (R187). -/
def execDecZpX (zz : Byte) (s : State) : Res State := modifyNZ (fun v => v - 1) (.mem (.zpX zz)) s

/-- `DEC $hhll,X`: minus one; N, Z (R187). -/
def execDecAbsX (hhll : Addr) (s : State) : Res State := modifyNZ (fun v => v - 1) (.mem (.absX hhll)) s

/-- `INX`: X plus one; N, Z (R188). -/
def execInx (s : State) : Res State := implied putX (s.x + 1) s

/-- `INY`: Y plus one; N, Z (R189). -/
def execIny (s : State) : Res State := implied putY (s.y + 1) s

/-- `DEX`: X minus one; N, Z (R190). -/
def execDex (s : State) : Res State := implied putX (s.x - 1) s

/-- `DEY`: Y minus one; N, Z (R191). -/
def execDey (s : State) : Res State := implied putY (s.y - 1) s

/-- `MUL $zz,X`: only with HAS_MULDIV (R193, R142). -/
def execMulZpX (zz : Byte) (s : State) : Res State :=
  if s.product.hasMulDiv then multiplyOp (zz + s.x) s else .refused (.undefinedOpcode 0x62 s.pc)

/-- `DIV $zz,X`: only with HAS_MULDIV (R194, R195, R142). -/
def execDivZpX (zz : Byte) (s : State) : Res State :=
  if s.product.hasMulDiv then divideOp (zz + s.x) s else .refused (.undefinedOpcode 0xE2 s.pc)

end Sys2Proof.Machine
end

