-- ==== Sys2Proof/Machine/BitFlag.lean ====
section
/-! DEFINITION. Bit manipulation and flag setting (43_bit_and_flag.md): the meaning of each instruction. -/

namespace Sys2Proof.Machine

/-- `CLB i,A`: bit i to 0, no flag (R231). -/
def execClbAcc (i : Nat) (s : State) : Res State := .next (putA (clearBit s.a i) (s.begin 1))

/-- `CLB i,$zz`: bit i to 0, no flag (R231). -/
def execClbZp (i : Nat) (zz : Byte) (s : State) : Res State := modifyBit clearBit i zz s

/-- `SEB i,A`: bit i to 1, no flag (R232). -/
def execSebAcc (i : Nat) (s : State) : Res State := .next (putA (setBit s.a i) (s.begin 1))

/-- `SEB i,$zz`: bit i to 1, no flag (R232). -/
def execSebZp (i : Nat) (zz : Byte) (s : State) : Res State := modifyBit setBit i zz s

/-- `CLC`: C to 0 (R236). -/
def execClc (s : State) : Res State := flagOp .c false s

/-- `SEC`: C to 1 (R237). -/
def execSec (s : State) : Res State := flagOp .c true s

/-- `CLD`: D to 0 (R238). -/
def execCld (s : State) : Res State := flagOp .d false s

/-- `SED`: D to 1 (R239). -/
def execSed (s : State) : Res State := flagOp .d true s

/-- `CLI`: I to 0 (R240). -/
def execCli (s : State) : Res State := flagOp .i false s

/-- `SEI`: I to 1 (R241). -/
def execSei (s : State) : Res State := flagOp .i true s

/-- `CLT`: T to 0 (R242). -/
def execClt (s : State) : Res State := flagOp .t false s

/-- `SET`: T to 1 (R243). -/
def execSet (s : State) : Res State := flagOp .t true s

/-- `CLV`: V to 0 (R244). -/
def execClv (s : State) : Res State := flagOp .v false s

end Sys2Proof.Machine
end

