-- ==== Sys2Proof/Machine/Control.lean ====
section
/-! DEFINITION. Jumps, branches, subroutine calls and returns (44_control_transfer.md): the meaning of each instruction. -/

namespace Sys2Proof.Machine

/-- `JMP $hhll`: to the operand (R251). -/
def execJmpAbs (hhll : Addr) (s : State) : Res State := .next ((s.begin 3).goto hhll)

/-- `JMP ($hhll)`: through the pointer at the operand, low byte first; a pointer at xxFF has no meaning (R252, R356). -/
def execJmpInd (hhll : Addr) (s : State) : Res State :=
  if loByte hhll = 0xFF then .refused (.jmpIndirectPageEnd hhll)
  else
    andThen (readWord .pointerLo .pointerHi hhll (hhll + 1) s) fun p => .next ((s.begin 3).goto p)

/-- `JMP ($zz)`: through a zero-page pointer (R253). -/
def execJmpZpInd (zz : Byte) (s : State) : Res State :=
  andThen (readZpWord zz s) fun p => .next ((s.begin 2).goto p)

/-- `BRA $hhll`: always (R255). -/
def execBra (rr : Byte) (s : State) : Res State := branch true 2 rr s

/-- `BCC $hhll`: taken when C is 0 (R256). -/
def execBcc (rr : Byte) (s : State) : Res State := branch (!s.flag .c) 2 rr s

/-- `BCS $hhll`: taken when C is 1 (R257). -/
def execBcs (rr : Byte) (s : State) : Res State := branch (s.flag .c) 2 rr s

/-- `BEQ $hhll`: taken when Z is 1 (R258). -/
def execBeq (rr : Byte) (s : State) : Res State := branch (s.flag .z) 2 rr s

/-- `BNE $hhll`: taken when Z is 0 (R259). -/
def execBne (rr : Byte) (s : State) : Res State := branch (!s.flag .z) 2 rr s

/-- `BMI $hhll`: taken when N is 1 (R260). -/
def execBmi (rr : Byte) (s : State) : Res State := branch (s.flag .n) 2 rr s

/-- `BPL $hhll`: taken when N is 0 (R261). -/
def execBpl (rr : Byte) (s : State) : Res State := branch (!s.flag .n) 2 rr s

/-- `BVC $hhll`: taken when V is 0 (R262). -/
def execBvc (rr : Byte) (s : State) : Res State := branch (!s.flag .v) 2 rr s

/-- `BVS $hhll`: taken when V is 1 (R263). -/
def execBvs (rr : Byte) (s : State) : Res State := branch (s.flag .v) 2 rr s

/-- `BBC i,A,$hhll`: taken when bit i is 0 (R264). -/
def execBbcAcc (i : Nat) (rr : Byte) (s : State) : Res State := branch (!s.a.getLsbD i) 2 rr s

/-- `BBC i,$zz,$hhll`: taken when bit i is 0 (R264). -/
def execBbcZp (i : Nat) (zz rr : Byte) (s : State) : Res State := branchOnZpBit false i zz rr s

/-- `BBS i,A,$hhll`: taken when bit i is 1 (R265). -/
def execBbsAcc (i : Nat) (rr : Byte) (s : State) : Res State := branch (s.a.getLsbD i) 2 rr s

/-- `BBS i,$zz,$hhll`: taken when bit i is 1 (R265). -/
def execBbsZp (i : Nat) (zz rr : Byte) (s : State) : Res State := branchOnZpBit true i zz rr s

/-- `JSR ($zz)`: return address pushed, then through a zero-page pointer read after the push (R266, R269). -/
def execJsrZpInd (zz : Byte) (s : State) : Res State :=
  andThen (callOp 2 s) fun t =>
  andThen (readZpWord zz t) fun p => .next (t.goto p)

/-- `JSR $hhll`: return address pushed, to the operand (R266, R267). -/
def execJsrAbs (hhll : Addr) (s : State) : Res State := andThen (callOp 3 s) fun t => .next (t.goto hhll)

/-- `JSR \$hhll`: return address pushed, to 0xFF ++ ll (R266, R268). -/
def execJsrSp (hhll : Addr) (s : State) : Res State :=
  andThen (callOp 2 s) fun t => .next (t.goto (cat16 0xFF (loByte hhll)))

/-- `RTS`: PC pulled, plus one; PS not restored (R270). -/
def execRts (s : State) : Res State :=
  andThen (pullWord .pull1 .pull2 (s.begin 1)) fun w => .next (w.2.goto (w.1 + 1))

/-- `RTI`: PS and PC pulled (R271, R318). -/
def execRti (s : State) : Res State := returnFromInterrupt (s.begin 1)

end Sys2Proof.Machine
end

