-- ==== Sys2Proof/Machine/Logic.lean ====
section
/-! DEFINITION. Logic, test, compare, shift and rotate (42_logic_compare_shift.md): the meaning of each instruction. -/

namespace Sys2Proof.Machine

/-- BIT on a byte of memory (R205): A and memory unchanged. -/
def bitTestOp (m : AddrMode) (s : State) : Res State :=
  andThen (operandByte (.mem m) s) fun v => .next ((s.begin (modeLength m)).setBitTest s.a v)

/-- `AND ($zz,X)`: and, into A or M(X) by T; N, Z (R201). -/
def execAndIndX (zz : Byte) (s : State) : Res State := logicOp (fun a m => a &&& m) (.mem (.indX zz)) s

/-- `AND $zz`: and, into A or M(X) by T; N, Z (R201). -/
def execAndZp (zz : Byte) (s : State) : Res State := logicOp (fun a m => a &&& m) (.mem (.zp zz)) s

/-- `AND #$nn`: and, into A or M(X) by T; N, Z (R201). -/
def execAndImm (nn : Byte) (s : State) : Res State := logicOp (fun a m => a &&& m) (.imm nn) s

/-- `AND $hhll`: and, into A or M(X) by T; N, Z (R201). -/
def execAndAbs (hhll : Addr) (s : State) : Res State := logicOp (fun a m => a &&& m) (.mem (.abs hhll)) s

/-- `AND ($zz),Y`: and, into A or M(X) by T; N, Z (R201). -/
def execAndIndY (zz : Byte) (s : State) : Res State := logicOp (fun a m => a &&& m) (.mem (.indY zz)) s

/-- `AND $zz,X`: and, into A or M(X) by T; N, Z (R201). -/
def execAndZpX (zz : Byte) (s : State) : Res State := logicOp (fun a m => a &&& m) (.mem (.zpX zz)) s

/-- `AND $hhll,Y`: and, into A or M(X) by T; N, Z (R201). -/
def execAndAbsY (hhll : Addr) (s : State) : Res State := logicOp (fun a m => a &&& m) (.mem (.absY hhll)) s

/-- `AND $hhll,X`: and, into A or M(X) by T; N, Z (R201). -/
def execAndAbsX (hhll : Addr) (s : State) : Res State := logicOp (fun a m => a &&& m) (.mem (.absX hhll)) s

/-- `ORA ($zz,X)`: or, into A or M(X) by T; N, Z (R202). -/
def execOraIndX (zz : Byte) (s : State) : Res State := logicOp (fun a m => a ||| m) (.mem (.indX zz)) s

/-- `ORA $zz`: or, into A or M(X) by T; N, Z (R202). -/
def execOraZp (zz : Byte) (s : State) : Res State := logicOp (fun a m => a ||| m) (.mem (.zp zz)) s

/-- `ORA #$nn`: or, into A or M(X) by T; N, Z (R202). -/
def execOraImm (nn : Byte) (s : State) : Res State := logicOp (fun a m => a ||| m) (.imm nn) s

/-- `ORA $hhll`: or, into A or M(X) by T; N, Z (R202). -/
def execOraAbs (hhll : Addr) (s : State) : Res State := logicOp (fun a m => a ||| m) (.mem (.abs hhll)) s

/-- `ORA ($zz),Y`: or, into A or M(X) by T; N, Z (R202). -/
def execOraIndY (zz : Byte) (s : State) : Res State := logicOp (fun a m => a ||| m) (.mem (.indY zz)) s

/-- `ORA $zz,X`: or, into A or M(X) by T; N, Z (R202). -/
def execOraZpX (zz : Byte) (s : State) : Res State := logicOp (fun a m => a ||| m) (.mem (.zpX zz)) s

/-- `ORA $hhll,Y`: or, into A or M(X) by T; N, Z (R202). -/
def execOraAbsY (hhll : Addr) (s : State) : Res State := logicOp (fun a m => a ||| m) (.mem (.absY hhll)) s

/-- `ORA $hhll,X`: or, into A or M(X) by T; N, Z (R202). -/
def execOraAbsX (hhll : Addr) (s : State) : Res State := logicOp (fun a m => a ||| m) (.mem (.absX hhll)) s

/-- `EOR ($zz,X)`: exclusive or, into A or M(X) by T; N, Z (R203). -/
def execEorIndX (zz : Byte) (s : State) : Res State := logicOp (fun a m => a ^^^ m) (.mem (.indX zz)) s

/-- `EOR $zz`: exclusive or, into A or M(X) by T; N, Z (R203). -/
def execEorZp (zz : Byte) (s : State) : Res State := logicOp (fun a m => a ^^^ m) (.mem (.zp zz)) s

/-- `EOR #$nn`: exclusive or, into A or M(X) by T; N, Z (R203). -/
def execEorImm (nn : Byte) (s : State) : Res State := logicOp (fun a m => a ^^^ m) (.imm nn) s

/-- `EOR $hhll`: exclusive or, into A or M(X) by T; N, Z (R203). -/
def execEorAbs (hhll : Addr) (s : State) : Res State := logicOp (fun a m => a ^^^ m) (.mem (.abs hhll)) s

/-- `EOR ($zz),Y`: exclusive or, into A or M(X) by T; N, Z (R203). -/
def execEorIndY (zz : Byte) (s : State) : Res State := logicOp (fun a m => a ^^^ m) (.mem (.indY zz)) s

/-- `EOR $zz,X`: exclusive or, into A or M(X) by T; N, Z (R203). -/
def execEorZpX (zz : Byte) (s : State) : Res State := logicOp (fun a m => a ^^^ m) (.mem (.zpX zz)) s

/-- `EOR $hhll,Y`: exclusive or, into A or M(X) by T; N, Z (R203). -/
def execEorAbsY (hhll : Addr) (s : State) : Res State := logicOp (fun a m => a ^^^ m) (.mem (.absY hhll)) s

/-- `EOR $hhll,X`: exclusive or, into A or M(X) by T; N, Z (R203). -/
def execEorAbsX (hhll : Addr) (s : State) : Res State := logicOp (fun a m => a ^^^ m) (.mem (.absX hhll)) s

/-- `COM $zz`: one's complement of a zero-page byte; N, Z (R204). -/
def execComZp (zz : Byte) (s : State) : Res State := modifyNZ (fun v => ~~~v) (.mem (.zp zz)) s

/-- `BIT $zz`: N, V from memory bits 7, 6; Z from A and M (R205). -/
def execBitZp (zz : Byte) (s : State) : Res State := bitTestOp (.zp zz) s

/-- `BIT $hhll`: N, V from memory bits 7, 6; Z from A and M (R205). -/
def execBitAbs (hhll : Addr) (s : State) : Res State := bitTestOp (.abs hhll) s

/-- `TST $zz`: N, Z from the byte, nothing written (R206). -/
def execTstZp (zz : Byte) (s : State) : Res State := loadOp (fun _ t => t) (.mem (.zp zz)) s

/-- `CMP ($zz,X)`: A, or M(X) when T is 1, compared with the operand; N, Z, C (R207). -/
def execCmpIndX (zz : Byte) (s : State) : Res State := compareDstOp (.mem (.indX zz)) s

/-- `CMP $zz`: A, or M(X) when T is 1, compared with the operand; N, Z, C (R207). -/
def execCmpZp (zz : Byte) (s : State) : Res State := compareDstOp (.mem (.zp zz)) s

/-- `CMP #$nn`: A, or M(X) when T is 1, compared with the operand; N, Z, C (R207). -/
def execCmpImm (nn : Byte) (s : State) : Res State := compareDstOp (.imm nn) s

/-- `CMP $hhll`: A, or M(X) when T is 1, compared with the operand; N, Z, C (R207). -/
def execCmpAbs (hhll : Addr) (s : State) : Res State := compareDstOp (.mem (.abs hhll)) s

/-- `CMP ($zz),Y`: A, or M(X) when T is 1, compared with the operand; N, Z, C (R207). -/
def execCmpIndY (zz : Byte) (s : State) : Res State := compareDstOp (.mem (.indY zz)) s

/-- `CMP $zz,X`: A, or M(X) when T is 1, compared with the operand; N, Z, C (R207). -/
def execCmpZpX (zz : Byte) (s : State) : Res State := compareDstOp (.mem (.zpX zz)) s

/-- `CMP $hhll,Y`: A, or M(X) when T is 1, compared with the operand; N, Z, C (R207). -/
def execCmpAbsY (hhll : Addr) (s : State) : Res State := compareDstOp (.mem (.absY hhll)) s

/-- `CMP $hhll,X`: A, or M(X) when T is 1, compared with the operand; N, Z, C (R207). -/
def execCmpAbsX (hhll : Addr) (s : State) : Res State := compareDstOp (.mem (.absX hhll)) s

/-- `CPX #$nn`: X compared; N, Z, C (R208). -/
def execCpxImm (nn : Byte) (s : State) : Res State := compareOp s.x (.imm nn) s

/-- `CPX $zz`: X compared; N, Z, C (R208). -/
def execCpxZp (zz : Byte) (s : State) : Res State := compareOp s.x (.mem (.zp zz)) s

/-- `CPX $hhll`: X compared; N, Z, C (R208). -/
def execCpxAbs (hhll : Addr) (s : State) : Res State := compareOp s.x (.mem (.abs hhll)) s

/-- `CPY #$nn`: Y compared; N, Z, C (R209). -/
def execCpyImm (nn : Byte) (s : State) : Res State := compareOp s.y (.imm nn) s

/-- `CPY $zz`: Y compared; N, Z, C (R209). -/
def execCpyZp (zz : Byte) (s : State) : Res State := compareOp s.y (.mem (.zp zz)) s

/-- `CPY $hhll`: Y compared; N, Z, C (R209). -/
def execCpyAbs (hhll : Addr) (s : State) : Res State := compareOp s.y (.mem (.abs hhll)) s

/-- `ASL $zz`: shift left; N, Z, C (R210, R211). -/
def execAslZp (zz : Byte) (s : State) : Res State := shiftOp shiftLeft (.mem (.zp zz)) s

/-- `ASL A`: shift left; N, Z, C (R210, R211). -/
def execAslAcc (s : State) : Res State := shiftOp shiftLeft .acc s

/-- `ASL $hhll`: shift left; N, Z, C (R210, R211). -/
def execAslAbs (hhll : Addr) (s : State) : Res State := shiftOp shiftLeft (.mem (.abs hhll)) s

/-- `ASL $zz,X`: shift left; N, Z, C (R210, R211). -/
def execAslZpX (zz : Byte) (s : State) : Res State := shiftOp shiftLeft (.mem (.zpX zz)) s

/-- `ASL $hhll,X`: shift left; N, Z, C (R210, R211). -/
def execAslAbsX (hhll : Addr) (s : State) : Res State := shiftOp shiftLeft (.mem (.absX hhll)) s

/-- `LSR $zz`: shift right; N is 0, Z, C (R210, R212). -/
def execLsrZp (zz : Byte) (s : State) : Res State := shiftOp shiftRight (.mem (.zp zz)) s

/-- `LSR A`: shift right; N is 0, Z, C (R210, R212). -/
def execLsrAcc (s : State) : Res State := shiftOp shiftRight .acc s

/-- `LSR $hhll`: shift right; N is 0, Z, C (R210, R212). -/
def execLsrAbs (hhll : Addr) (s : State) : Res State := shiftOp shiftRight (.mem (.abs hhll)) s

/-- `LSR $zz,X`: shift right; N is 0, Z, C (R210, R212). -/
def execLsrZpX (zz : Byte) (s : State) : Res State := shiftOp shiftRight (.mem (.zpX zz)) s

/-- `LSR $hhll,X`: shift right; N is 0, Z, C (R210, R212). -/
def execLsrAbsX (hhll : Addr) (s : State) : Res State := shiftOp shiftRight (.mem (.absX hhll)) s

/-- `ROL $zz`: rotate left through C; N, Z, C (R210, R213). -/
def execRolZp (zz : Byte) (s : State) : Res State := shiftOp (fun v => rotateLeft v (s.flag .c)) (.mem (.zp zz)) s

/-- `ROL A`: rotate left through C; N, Z, C (R210, R213). -/
def execRolAcc (s : State) : Res State := shiftOp (fun v => rotateLeft v (s.flag .c)) .acc s

/-- `ROL $hhll`: rotate left through C; N, Z, C (R210, R213). -/
def execRolAbs (hhll : Addr) (s : State) : Res State :=
  shiftOp (fun v => rotateLeft v (s.flag .c)) (.mem (.abs hhll)) s

/-- `ROL $zz,X`: rotate left through C; N, Z, C (R210, R213). -/
def execRolZpX (zz : Byte) (s : State) : Res State := shiftOp (fun v => rotateLeft v (s.flag .c)) (.mem (.zpX zz)) s

/-- `ROL $hhll,X`: rotate left through C; N, Z, C (R210, R213). -/
def execRolAbsX (hhll : Addr) (s : State) : Res State :=
  shiftOp (fun v => rotateLeft v (s.flag .c)) (.mem (.absX hhll)) s

/-- `ROR $zz`: rotate right through C; N, Z, C (R210, R214). -/
def execRorZp (zz : Byte) (s : State) : Res State := shiftOp (fun v => rotateRight v (s.flag .c)) (.mem (.zp zz)) s

/-- `ROR A`: rotate right through C; N, Z, C (R210, R214). -/
def execRorAcc (s : State) : Res State := shiftOp (fun v => rotateRight v (s.flag .c)) .acc s

/-- `ROR $hhll`: rotate right through C; N, Z, C (R210, R214). -/
def execRorAbs (hhll : Addr) (s : State) : Res State :=
  shiftOp (fun v => rotateRight v (s.flag .c)) (.mem (.abs hhll)) s

/-- `ROR $zz,X`: rotate right through C; N, Z, C (R210, R214). -/
def execRorZpX (zz : Byte) (s : State) : Res State := shiftOp (fun v => rotateRight v (s.flag .c)) (.mem (.zpX zz)) s

/-- `ROR $hhll,X`: rotate right through C; N, Z, C (R210, R214). -/
def execRorAbsX (hhll : Addr) (s : State) : Res State :=
  shiftOp (fun v => rotateRight v (s.flag .c)) (.mem (.absX hhll)) s

/-- `RRF $zz`: the nibbles exchanged, no flag (R215). -/
def execRrfZp (zz : Byte) (s : State) : Res State := modifyOp swapNibbles (fun _ t => t) (.mem (.zp zz)) s

end Sys2Proof.Machine
end

