-- ==== Sys2Proof/Machine/Special.lean ====
section
/-! DEFINITION. BRK, STP, WIT and NOP (45_interrupt_special_other.md): the meaning of each instruction. -/

namespace Sys2Proof.Machine

/-- The vector BRK uses (R281, R316, D23): BRK_VECTOR, or while I is 1 the vector of the highest-priority source whose
request and enable bits are both 1 (log 18). It is chosen on the state before BRK's own pushes, which matters where the
stack overlaps a request or enable byte: the spec does not say which (DESIGN CHOICE, unsafe, log 40). -/
def brkVectorUsed (s : State) : Addr :=
  match s.flag .i, highestOf s.requesting with
  | true, some k => k.vector
  | _, _ => s.product.brkVector

/-- `BRK`: the software interrupt; the saved PC is the opcode's address plus two (R280, R281, R304). -/
def execBrk (s : State) : Res State := takeInterrupt true (s.nextPc 2) (brkVectorUsed s) none (s.begin 1)

/-- `STP`: the stop state, or NOP by STP_MODE (R283). -/
def execStp (s : State) : Res State :=
  .next
    (match s.product.stpMode with
      | .stop => (s.begin 1).enter .stop
      | .nop => s.begin 1)

/-- `WIT`: the wait state (R284). -/
def execWit (s : State) : Res State := .next ((s.begin 1).enter .wait)

/-- `NOP`: PC plus one and nothing else (R286). -/
def execNop (s : State) : Res State := .next (s.begin 1)

end Sys2Proof.Machine
end

