-- ==== Sys2Proof/Machine/Transfer.lean ====
section
/-! DEFINITION. Data transfer: loads, stores, register transfers, stack operations (40_data_transfer.md): the meaning of each instruction. -/

namespace Sys2Proof.Machine

/-- `LDA ($zz,X)`: A, or M(X) when T is 1, takes the operand; N, Z (R151, R152). -/
def execLdaIndX (zz : Byte) (s : State) : Res State := loadDstOp (.mem (.indX zz)) s

/-- `LDA $zz`: A, or M(X) when T is 1, takes the operand; N, Z (R151, R152). -/
def execLdaZp (zz : Byte) (s : State) : Res State := loadDstOp (.mem (.zp zz)) s

/-- `LDA #$nn`: A, or M(X) when T is 1, takes the operand; N, Z (R151, R152). -/
def execLdaImm (nn : Byte) (s : State) : Res State := loadDstOp (.imm nn) s

/-- `LDA $hhll`: A, or M(X) when T is 1, takes the operand; N, Z (R151, R152). -/
def execLdaAbs (hhll : Addr) (s : State) : Res State := loadDstOp (.mem (.abs hhll)) s

/-- `LDA ($zz),Y`: A, or M(X) when T is 1, takes the operand; N, Z (R151, R152). -/
def execLdaIndY (zz : Byte) (s : State) : Res State := loadDstOp (.mem (.indY zz)) s

/-- `LDA $zz,X`: A, or M(X) when T is 1, takes the operand; N, Z (R151, R152). -/
def execLdaZpX (zz : Byte) (s : State) : Res State := loadDstOp (.mem (.zpX zz)) s

/-- `LDA $hhll,Y`: A, or M(X) when T is 1, takes the operand; N, Z (R151, R152). -/
def execLdaAbsY (hhll : Addr) (s : State) : Res State := loadDstOp (.mem (.absY hhll)) s

/-- `LDA $hhll,X`: A, or M(X) when T is 1, takes the operand; N, Z (R151, R152). -/
def execLdaAbsX (hhll : Addr) (s : State) : Res State := loadDstOp (.mem (.absX hhll)) s

/-- `LDM #$nn,$zz`: the immediate byte stored in the zero page, nothing read, no flag (R153). -/
def execLdmZp (nn zz : Byte) (s : State) : Res State := writeByte .whole (zext16 zz) nn (s.begin 3)

/-- `LDX #$nn`: X takes the operand; N, Z (R154). -/
def execLdxImm (nn : Byte) (s : State) : Res State := loadOp putX (.imm nn) s

/-- `LDX $zz`: X takes the operand; N, Z (R154). -/
def execLdxZp (zz : Byte) (s : State) : Res State := loadOp putX (.mem (.zp zz)) s

/-- `LDX $hhll`: X takes the operand; N, Z (R154). -/
def execLdxAbs (hhll : Addr) (s : State) : Res State := loadOp putX (.mem (.abs hhll)) s

/-- `LDX $zz,Y`: X takes the operand; N, Z (R154). -/
def execLdxZpY (zz : Byte) (s : State) : Res State := loadOp putX (.mem (.zpY zz)) s

/-- `LDX $hhll,Y`: X takes the operand; N, Z (R154). -/
def execLdxAbsY (hhll : Addr) (s : State) : Res State := loadOp putX (.mem (.absY hhll)) s

/-- `LDY #$nn`: Y takes the operand; N, Z (R155). -/
def execLdyImm (nn : Byte) (s : State) : Res State := loadOp putY (.imm nn) s

/-- `LDY $zz`: Y takes the operand; N, Z (R155). -/
def execLdyZp (zz : Byte) (s : State) : Res State := loadOp putY (.mem (.zp zz)) s

/-- `LDY $hhll`: Y takes the operand; N, Z (R155). -/
def execLdyAbs (hhll : Addr) (s : State) : Res State := loadOp putY (.mem (.abs hhll)) s

/-- `LDY $zz,X`: Y takes the operand; N, Z (R155). -/
def execLdyZpX (zz : Byte) (s : State) : Res State := loadOp putY (.mem (.zpX zz)) s

/-- `LDY $hhll,X`: Y takes the operand; N, Z (R155). -/
def execLdyAbsX (hhll : Addr) (s : State) : Res State := loadOp putY (.mem (.absX hhll)) s

/-- `STA ($zz,X)`: A stored, no flag (R156). -/
def execStaIndX (zz : Byte) (s : State) : Res State := storeOp (.indX zz) s.a s

/-- `STA $zz`: A stored, no flag (R156). -/
def execStaZp (zz : Byte) (s : State) : Res State := storeOp (.zp zz) s.a s

/-- `STA $hhll`: A stored, no flag (R156). -/
def execStaAbs (hhll : Addr) (s : State) : Res State := storeOp (.abs hhll) s.a s

/-- `STA ($zz),Y`: A stored, no flag (R156). -/
def execStaIndY (zz : Byte) (s : State) : Res State := storeOp (.indY zz) s.a s

/-- `STA $zz,X`: A stored, no flag (R156). -/
def execStaZpX (zz : Byte) (s : State) : Res State := storeOp (.zpX zz) s.a s

/-- `STA $hhll,Y`: A stored, no flag (R156). -/
def execStaAbsY (hhll : Addr) (s : State) : Res State := storeOp (.absY hhll) s.a s

/-- `STA $hhll,X`: A stored, no flag (R156). -/
def execStaAbsX (hhll : Addr) (s : State) : Res State := storeOp (.absX hhll) s.a s

/-- `STX $zz`: X stored, no flag (R157). -/
def execStxZp (zz : Byte) (s : State) : Res State := storeOp (.zp zz) s.x s

/-- `STX $hhll`: X stored, no flag (R157). -/
def execStxAbs (hhll : Addr) (s : State) : Res State := storeOp (.abs hhll) s.x s

/-- `STX $zz,Y`: X stored, no flag (R157). -/
def execStxZpY (zz : Byte) (s : State) : Res State := storeOp (.zpY zz) s.x s

/-- `STY $zz`: Y stored, no flag (R158). -/
def execStyZp (zz : Byte) (s : State) : Res State := storeOp (.zp zz) s.y s

/-- `STY $hhll`: Y stored, no flag (R158). -/
def execStyAbs (hhll : Addr) (s : State) : Res State := storeOp (.abs hhll) s.y s

/-- `STY $zz,X`: Y stored, no flag (R158). -/
def execStyZpX (zz : Byte) (s : State) : Res State := storeOp (.zpX zz) s.y s

/-- `TAX`: X takes A; N, Z (R159). -/
def execTax (s : State) : Res State := implied putX s.a s

/-- `TXA`: A takes X whatever T is; N, Z (R160). -/
def execTxa (s : State) : Res State := implied putA s.x s

/-- `TAY`: Y takes A; N, Z (R161). -/
def execTay (s : State) : Res State := implied putY s.a s

/-- `TYA`: A takes Y; N, Z (R162). -/
def execTya (s : State) : Res State := implied putA s.y s

/-- `TSX`: X takes S; N, Z (R163). -/
def execTsx (s : State) : Res State := implied putX s.sp s

/-- `TXS`: S takes X, no flag (R164). -/
def execTxs (s : State) : Res State := .next (putS s.x (s.begin 1))

/-- `PHA`: A pushed (R165). -/
def execPha (s : State) : Res State := push s.a (s.begin 1)

/-- `PHP`: the live PS pushed, all eight bits (R166). -/
def execPhp (s : State) : Res State := push s.ps (s.begin 1)

/-- `PLA`: A pulled; N, Z (R167). -/
def execPla (s : State) : Res State := andThen (pull .pull1 (s.begin 1)) fun p => .next ((putA p.1 p.2).setNZ p.1)

/-- `PLP`: PS pulled, all eight bits; `lastWasPLP` is set (R168, R354). -/
def execPlp (s : State) : Res State :=
  andThen (pull .pull1 (s.begin 1)) fun p => .next (putPs p.1 p.2).markPlp

end Sys2Proof.Machine
end

