-- ==== Sys2Proof/Syntax.lean ====
section
/-! DEFINITION. The instructions: one constructor for each row of spec/opcode_table.json (a mnemonic in one addressing
mode, R2, R101, R103), with the operands as the program names them: `nn` an immediate byte, `zz` a zero-page address,
`hhll` a 16-bit address, `rr` the displacement byte of a branch, `i` a bit number (R124). -/

namespace Sys2Proof

inductive Instr where
  -- Data transfer (R150)
  /-- `LDA ($zz,X)` (R151, R113). -/
  | ldaIndX (zz : Byte)
  /-- `LDA $zz` (R151, R107). -/
  | ldaZp (zz : Byte)
  /-- `LDA #$nn` (R151, R105). -/
  | ldaImm (nn : Byte)
  /-- `LDA $hhll` (R151, R110). -/
  | ldaAbs (hhll : Addr)
  /-- `LDA ($zz),Y` (R151, R114). -/
  | ldaIndY (zz : Byte)
  /-- `LDA $zz,X` (R151, R108). -/
  | ldaZpX (zz : Byte)
  /-- `LDA $hhll,Y` (R151, R112). -/
  | ldaAbsY (hhll : Addr)
  /-- `LDA $hhll,X` (R151, R111). -/
  | ldaAbsX (hhll : Addr)
  /-- `LDM #$nn,$zz` (R153, R107). -/
  | ldmZp (nn zz : Byte)
  /-- `LDX #$nn` (R154, R105). -/
  | ldxImm (nn : Byte)
  /-- `LDX $zz` (R154, R107). -/
  | ldxZp (zz : Byte)
  /-- `LDX $hhll` (R154, R110). -/
  | ldxAbs (hhll : Addr)
  /-- `LDX $zz,Y` (R154, R109). -/
  | ldxZpY (zz : Byte)
  /-- `LDX $hhll,Y` (R154, R112). -/
  | ldxAbsY (hhll : Addr)
  /-- `LDY #$nn` (R155, R105). -/
  | ldyImm (nn : Byte)
  /-- `LDY $zz` (R155, R107). -/
  | ldyZp (zz : Byte)
  /-- `LDY $hhll` (R155, R110). -/
  | ldyAbs (hhll : Addr)
  /-- `LDY $zz,X` (R155, R108). -/
  | ldyZpX (zz : Byte)
  /-- `LDY $hhll,X` (R155, R111). -/
  | ldyAbsX (hhll : Addr)
  /-- `STA ($zz,X)` (R156, R113). -/
  | staIndX (zz : Byte)
  /-- `STA $zz` (R156, R107). -/
  | staZp (zz : Byte)
  /-- `STA $hhll` (R156, R110). -/
  | staAbs (hhll : Addr)
  /-- `STA ($zz),Y` (R156, R114). -/
  | staIndY (zz : Byte)
  /-- `STA $zz,X` (R156, R108). -/
  | staZpX (zz : Byte)
  /-- `STA $hhll,Y` (R156, R112). -/
  | staAbsY (hhll : Addr)
  /-- `STA $hhll,X` (R156, R111). -/
  | staAbsX (hhll : Addr)
  /-- `STX $zz` (R157, R107). -/
  | stxZp (zz : Byte)
  /-- `STX $hhll` (R157, R110). -/
  | stxAbs (hhll : Addr)
  /-- `STX $zz,Y` (R157, R109). -/
  | stxZpY (zz : Byte)
  /-- `STY $zz` (R158, R107). -/
  | styZp (zz : Byte)
  /-- `STY $hhll` (R158, R110). -/
  | styAbs (hhll : Addr)
  /-- `STY $zz,X` (R158, R108). -/
  | styZpX (zz : Byte)
  /-- `TAX` (R159, R104). -/
  | tax
  /-- `TXA` (R160, R104). -/
  | txa
  /-- `TAY` (R161, R104). -/
  | tay
  /-- `TYA` (R162, R104). -/
  | tya
  /-- `TSX` (R163, R104). -/
  | tsx
  /-- `TXS` (R164, R104). -/
  | txs
  /-- `PHA` (R165, R104). -/
  | pha
  /-- `PHP` (R166, R104). -/
  | php
  /-- `PLA` (R167, R104). -/
  | pla
  /-- `PLP` (R168, R104). -/
  | plp
  -- Arithmetic (R180)
  /-- `ADC ($zz,X)` (R181, R113). -/
  | adcIndX (zz : Byte)
  /-- `ADC $zz` (R181, R107). -/
  | adcZp (zz : Byte)
  /-- `ADC #$nn` (R181, R105). -/
  | adcImm (nn : Byte)
  /-- `ADC $hhll` (R181, R110). -/
  | adcAbs (hhll : Addr)
  /-- `ADC ($zz),Y` (R181, R114). -/
  | adcIndY (zz : Byte)
  /-- `ADC $zz,X` (R181, R108). -/
  | adcZpX (zz : Byte)
  /-- `ADC $hhll,Y` (R181, R112). -/
  | adcAbsY (hhll : Addr)
  /-- `ADC $hhll,X` (R181, R111). -/
  | adcAbsX (hhll : Addr)
  /-- `SBC ($zz,X)` (R183, R113). -/
  | sbcIndX (zz : Byte)
  /-- `SBC $zz` (R183, R107). -/
  | sbcZp (zz : Byte)
  /-- `SBC #$nn` (R183, R105). -/
  | sbcImm (nn : Byte)
  /-- `SBC $hhll` (R183, R110). -/
  | sbcAbs (hhll : Addr)
  /-- `SBC ($zz),Y` (R183, R114). -/
  | sbcIndY (zz : Byte)
  /-- `SBC $zz,X` (R183, R108). -/
  | sbcZpX (zz : Byte)
  /-- `SBC $hhll,Y` (R183, R112). -/
  | sbcAbsY (hhll : Addr)
  /-- `SBC $hhll,X` (R183, R111). -/
  | sbcAbsX (hhll : Addr)
  /-- `INC A` (R186, R106). -/
  | incAcc
  /-- `INC $zz` (R186, R107). -/
  | incZp (zz : Byte)
  /-- `INC $hhll` (R186, R110). -/
  | incAbs (hhll : Addr)
  /-- `INC $zz,X` (R186, R108). -/
  | incZpX (zz : Byte)
  /-- `INC $hhll,X` (R186, R111). -/
  | incAbsX (hhll : Addr)
  /-- `DEC A` (R187, R106). -/
  | decAcc
  /-- `DEC $zz` (R187, R107). -/
  | decZp (zz : Byte)
  /-- `DEC $hhll` (R187, R110). -/
  | decAbs (hhll : Addr)
  /-- `DEC $zz,X` (R187, R108). -/
  | decZpX (zz : Byte)
  /-- `DEC $hhll,X` (R187, R111). -/
  | decAbsX (hhll : Addr)
  /-- `INX` (R188, R104). -/
  | inx
  /-- `INY` (R189, R104). -/
  | iny
  /-- `DEX` (R190, R104). -/
  | dex
  /-- `DEY` (R191, R104). -/
  | dey
  /-- `MUL $zz,X` (R193, R108). -/
  | mulZpX (zz : Byte)
  /-- `DIV $zz,X` (R194, R108). -/
  | divZpX (zz : Byte)
  -- Logic and test (R200)
  /-- `AND ($zz,X)` (R201, R113). -/
  | andIndX (zz : Byte)
  /-- `AND $zz` (R201, R107). -/
  | andZp (zz : Byte)
  /-- `AND #$nn` (R201, R105). -/
  | andImm (nn : Byte)
  /-- `AND $hhll` (R201, R110). -/
  | andAbs (hhll : Addr)
  /-- `AND ($zz),Y` (R201, R114). -/
  | andIndY (zz : Byte)
  /-- `AND $zz,X` (R201, R108). -/
  | andZpX (zz : Byte)
  /-- `AND $hhll,Y` (R201, R112). -/
  | andAbsY (hhll : Addr)
  /-- `AND $hhll,X` (R201, R111). -/
  | andAbsX (hhll : Addr)
  /-- `ORA ($zz,X)` (R202, R113). -/
  | oraIndX (zz : Byte)
  /-- `ORA $zz` (R202, R107). -/
  | oraZp (zz : Byte)
  /-- `ORA #$nn` (R202, R105). -/
  | oraImm (nn : Byte)
  /-- `ORA $hhll` (R202, R110). -/
  | oraAbs (hhll : Addr)
  /-- `ORA ($zz),Y` (R202, R114). -/
  | oraIndY (zz : Byte)
  /-- `ORA $zz,X` (R202, R108). -/
  | oraZpX (zz : Byte)
  /-- `ORA $hhll,Y` (R202, R112). -/
  | oraAbsY (hhll : Addr)
  /-- `ORA $hhll,X` (R202, R111). -/
  | oraAbsX (hhll : Addr)
  /-- `EOR ($zz,X)` (R203, R113). -/
  | eorIndX (zz : Byte)
  /-- `EOR $zz` (R203, R107). -/
  | eorZp (zz : Byte)
  /-- `EOR #$nn` (R203, R105). -/
  | eorImm (nn : Byte)
  /-- `EOR $hhll` (R203, R110). -/
  | eorAbs (hhll : Addr)
  /-- `EOR ($zz),Y` (R203, R114). -/
  | eorIndY (zz : Byte)
  /-- `EOR $zz,X` (R203, R108). -/
  | eorZpX (zz : Byte)
  /-- `EOR $hhll,Y` (R203, R112). -/
  | eorAbsY (hhll : Addr)
  /-- `EOR $hhll,X` (R203, R111). -/
  | eorAbsX (hhll : Addr)
  /-- `COM $zz` (R204, R107). -/
  | comZp (zz : Byte)
  /-- `BIT $zz` (R205, R107). -/
  | bitZp (zz : Byte)
  /-- `BIT $hhll` (R205, R110). -/
  | bitAbs (hhll : Addr)
  /-- `TST $zz` (R206, R107). -/
  | tstZp (zz : Byte)
  -- Compare (R200)
  /-- `CMP ($zz,X)` (R207, R113). -/
  | cmpIndX (zz : Byte)
  /-- `CMP $zz` (R207, R107). -/
  | cmpZp (zz : Byte)
  /-- `CMP #$nn` (R207, R105). -/
  | cmpImm (nn : Byte)
  /-- `CMP $hhll` (R207, R110). -/
  | cmpAbs (hhll : Addr)
  /-- `CMP ($zz),Y` (R207, R114). -/
  | cmpIndY (zz : Byte)
  /-- `CMP $zz,X` (R207, R108). -/
  | cmpZpX (zz : Byte)
  /-- `CMP $hhll,Y` (R207, R112). -/
  | cmpAbsY (hhll : Addr)
  /-- `CMP $hhll,X` (R207, R111). -/
  | cmpAbsX (hhll : Addr)
  /-- `CPX #$nn` (R208, R105). -/
  | cpxImm (nn : Byte)
  /-- `CPX $zz` (R208, R107). -/
  | cpxZp (zz : Byte)
  /-- `CPX $hhll` (R208, R110). -/
  | cpxAbs (hhll : Addr)
  /-- `CPY #$nn` (R209, R105). -/
  | cpyImm (nn : Byte)
  /-- `CPY $zz` (R209, R107). -/
  | cpyZp (zz : Byte)
  /-- `CPY $hhll` (R209, R110). -/
  | cpyAbs (hhll : Addr)
  -- Shift and rotate (R200)
  /-- `ASL $zz` (R211, R107). -/
  | aslZp (zz : Byte)
  /-- `ASL A` (R211, R106). -/
  | aslAcc
  /-- `ASL $hhll` (R211, R110). -/
  | aslAbs (hhll : Addr)
  /-- `ASL $zz,X` (R211, R108). -/
  | aslZpX (zz : Byte)
  /-- `ASL $hhll,X` (R211, R111). -/
  | aslAbsX (hhll : Addr)
  /-- `LSR $zz` (R212, R107). -/
  | lsrZp (zz : Byte)
  /-- `LSR A` (R212, R106). -/
  | lsrAcc
  /-- `LSR $hhll` (R212, R110). -/
  | lsrAbs (hhll : Addr)
  /-- `LSR $zz,X` (R212, R108). -/
  | lsrZpX (zz : Byte)
  /-- `LSR $hhll,X` (R212, R111). -/
  | lsrAbsX (hhll : Addr)
  /-- `ROL $zz` (R213, R107). -/
  | rolZp (zz : Byte)
  /-- `ROL A` (R213, R106). -/
  | rolAcc
  /-- `ROL $hhll` (R213, R110). -/
  | rolAbs (hhll : Addr)
  /-- `ROL $zz,X` (R213, R108). -/
  | rolZpX (zz : Byte)
  /-- `ROL $hhll,X` (R213, R111). -/
  | rolAbsX (hhll : Addr)
  /-- `ROR $zz` (R214, R107). -/
  | rorZp (zz : Byte)
  /-- `ROR A` (R214, R106). -/
  | rorAcc
  /-- `ROR $hhll` (R214, R110). -/
  | rorAbs (hhll : Addr)
  /-- `ROR $zz,X` (R214, R108). -/
  | rorZpX (zz : Byte)
  /-- `ROR $hhll,X` (R214, R111). -/
  | rorAbsX (hhll : Addr)
  /-- `RRF $zz` (R215, R107). -/
  | rrfZp (zz : Byte)
  -- Bit manipulation (R230)
  /-- `CLB i,A` (R231, R119). -/
  | clbAcc (i : Nat)
  /-- `CLB i,$zz` (R231, R119). -/
  | clbZp (i : Nat) (zz : Byte)
  /-- `SEB i,A` (R232, R119). -/
  | sebAcc (i : Nat)
  /-- `SEB i,$zz` (R232, R119). -/
  | sebZp (i : Nat) (zz : Byte)
  -- Flag setting (R235)
  /-- `CLC` (R236, R104). -/
  | clc
  /-- `SEC` (R237, R104). -/
  | sec
  /-- `CLD` (R238, R104). -/
  | cld
  /-- `SED` (R239, R104). -/
  | sed
  /-- `CLI` (R240, R104). -/
  | cli
  /-- `SEI` (R241, R104). -/
  | sei
  /-- `CLT` (R242, R104). -/
  | clt
  /-- `SET` (R243, R104). -/
  | set
  /-- `CLV` (R244, R104). -/
  | clv
  -- Jumps and branches (R250)
  /-- `JMP $hhll` (R251, R110). -/
  | jmpAbs (hhll : Addr)
  /-- `JMP ($hhll)` (R252, R115). -/
  | jmpInd (hhll : Addr)
  /-- `JMP ($zz)` (R253, R116). -/
  | jmpZpInd (zz : Byte)
  /-- `BRA $hhll` (R255, R118). -/
  | bra (rr : Byte)
  /-- `BCC $hhll` (R256, R118). -/
  | bcc (rr : Byte)
  /-- `BCS $hhll` (R257, R118). -/
  | bcs (rr : Byte)
  /-- `BEQ $hhll` (R258, R118). -/
  | beq (rr : Byte)
  /-- `BNE $hhll` (R259, R118). -/
  | bne (rr : Byte)
  /-- `BMI $hhll` (R260, R118). -/
  | bmi (rr : Byte)
  /-- `BPL $hhll` (R261, R118). -/
  | bpl (rr : Byte)
  /-- `BVC $hhll` (R262, R118). -/
  | bvc (rr : Byte)
  /-- `BVS $hhll` (R263, R118). -/
  | bvs (rr : Byte)
  /-- `BBC i,A,$hhll` (R264, R120). -/
  | bbcAcc (i : Nat) (rr : Byte)
  /-- `BBC i,$zz,$hhll` (R264, R120). -/
  | bbcZp (i : Nat) (zz rr : Byte)
  /-- `BBS i,A,$hhll` (R265, R120). -/
  | bbsAcc (i : Nat) (rr : Byte)
  /-- `BBS i,$zz,$hhll` (R265, R120). -/
  | bbsZp (i : Nat) (zz rr : Byte)
  -- Subroutine call and returns (R250)
  /-- `JSR ($zz)` (R269, R116). -/
  | jsrZpInd (zz : Byte)
  /-- `JSR $hhll` (R267, R110). -/
  | jsrAbs (hhll : Addr)
  /-- `JSR \$hhll` (R268, R117). -/
  | jsrSp (hhll : Addr)
  /-- `RTS` (R270, R104). -/
  | rts
  /-- `RTI` (R271, R104). -/
  | rti
  -- BRK, clock control and NOP (R280 to R286)
  /-- `BRK` (R280, R104). -/
  | brk
  /-- `STP` (R283, R104). -/
  | stp
  /-- `WIT` (R284, R104). -/
  | wit
  /-- `NOP` (R286, R104). -/
  | nop
deriving DecidableEq, Repr

end Sys2Proof
end

