-- ==== Sys2Proof/Machine/Dispatch.lean ====
section
/-! DEFINITION. One arm for each instruction: the call of its meaning. -/

namespace Sys2Proof.Machine

def exec (i : Instr) (s : State) : Host.Outcome State Fault Refusal :=
  match i with
  | .ldaIndX zz => Sys2Proof.Machine.execLdaIndX zz s
  | .ldaZp zz => Sys2Proof.Machine.execLdaZp zz s
  | .ldaImm nn => Sys2Proof.Machine.execLdaImm nn s
  | .ldaAbs hhll => Sys2Proof.Machine.execLdaAbs hhll s
  | .ldaIndY zz => Sys2Proof.Machine.execLdaIndY zz s
  | .ldaZpX zz => Sys2Proof.Machine.execLdaZpX zz s
  | .ldaAbsY hhll => Sys2Proof.Machine.execLdaAbsY hhll s
  | .ldaAbsX hhll => Sys2Proof.Machine.execLdaAbsX hhll s
  | .ldmZp nn zz => Sys2Proof.Machine.execLdmZp nn zz s
  | .ldxImm nn => Sys2Proof.Machine.execLdxImm nn s
  | .ldxZp zz => Sys2Proof.Machine.execLdxZp zz s
  | .ldxAbs hhll => Sys2Proof.Machine.execLdxAbs hhll s
  | .ldxZpY zz => Sys2Proof.Machine.execLdxZpY zz s
  | .ldxAbsY hhll => Sys2Proof.Machine.execLdxAbsY hhll s
  | .ldyImm nn => Sys2Proof.Machine.execLdyImm nn s
  | .ldyZp zz => Sys2Proof.Machine.execLdyZp zz s
  | .ldyAbs hhll => Sys2Proof.Machine.execLdyAbs hhll s
  | .ldyZpX zz => Sys2Proof.Machine.execLdyZpX zz s
  | .ldyAbsX hhll => Sys2Proof.Machine.execLdyAbsX hhll s
  | .staIndX zz => Sys2Proof.Machine.execStaIndX zz s
  | .staZp zz => Sys2Proof.Machine.execStaZp zz s
  | .staAbs hhll => Sys2Proof.Machine.execStaAbs hhll s
  | .staIndY zz => Sys2Proof.Machine.execStaIndY zz s
  | .staZpX zz => Sys2Proof.Machine.execStaZpX zz s
  | .staAbsY hhll => Sys2Proof.Machine.execStaAbsY hhll s
  | .staAbsX hhll => Sys2Proof.Machine.execStaAbsX hhll s
  | .stxZp zz => Sys2Proof.Machine.execStxZp zz s
  | .stxAbs hhll => Sys2Proof.Machine.execStxAbs hhll s
  | .stxZpY zz => Sys2Proof.Machine.execStxZpY zz s
  | .styZp zz => Sys2Proof.Machine.execStyZp zz s
  | .styAbs hhll => Sys2Proof.Machine.execStyAbs hhll s
  | .styZpX zz => Sys2Proof.Machine.execStyZpX zz s
  | .tax => Sys2Proof.Machine.execTax s
  | .txa => Sys2Proof.Machine.execTxa s
  | .tay => Sys2Proof.Machine.execTay s
  | .tya => Sys2Proof.Machine.execTya s
  | .tsx => Sys2Proof.Machine.execTsx s
  | .txs => Sys2Proof.Machine.execTxs s
  | .pha => Sys2Proof.Machine.execPha s
  | .php => Sys2Proof.Machine.execPhp s
  | .pla => Sys2Proof.Machine.execPla s
  | .plp => Sys2Proof.Machine.execPlp s
  | .adcIndX zz => Sys2Proof.Machine.execAdcIndX zz s
  | .adcZp zz => Sys2Proof.Machine.execAdcZp zz s
  | .adcImm nn => Sys2Proof.Machine.execAdcImm nn s
  | .adcAbs hhll => Sys2Proof.Machine.execAdcAbs hhll s
  | .adcIndY zz => Sys2Proof.Machine.execAdcIndY zz s
  | .adcZpX zz => Sys2Proof.Machine.execAdcZpX zz s
  | .adcAbsY hhll => Sys2Proof.Machine.execAdcAbsY hhll s
  | .adcAbsX hhll => Sys2Proof.Machine.execAdcAbsX hhll s
  | .sbcIndX zz => Sys2Proof.Machine.execSbcIndX zz s
  | .sbcZp zz => Sys2Proof.Machine.execSbcZp zz s
  | .sbcImm nn => Sys2Proof.Machine.execSbcImm nn s
  | .sbcAbs hhll => Sys2Proof.Machine.execSbcAbs hhll s
  | .sbcIndY zz => Sys2Proof.Machine.execSbcIndY zz s
  | .sbcZpX zz => Sys2Proof.Machine.execSbcZpX zz s
  | .sbcAbsY hhll => Sys2Proof.Machine.execSbcAbsY hhll s
  | .sbcAbsX hhll => Sys2Proof.Machine.execSbcAbsX hhll s
  | .incAcc => Sys2Proof.Machine.execIncAcc s
  | .incZp zz => Sys2Proof.Machine.execIncZp zz s
  | .incAbs hhll => Sys2Proof.Machine.execIncAbs hhll s
  | .incZpX zz => Sys2Proof.Machine.execIncZpX zz s
  | .incAbsX hhll => Sys2Proof.Machine.execIncAbsX hhll s
  | .decAcc => Sys2Proof.Machine.execDecAcc s
  | .decZp zz => Sys2Proof.Machine.execDecZp zz s
  | .decAbs hhll => Sys2Proof.Machine.execDecAbs hhll s
  | .decZpX zz => Sys2Proof.Machine.execDecZpX zz s
  | .decAbsX hhll => Sys2Proof.Machine.execDecAbsX hhll s
  | .inx => Sys2Proof.Machine.execInx s
  | .iny => Sys2Proof.Machine.execIny s
  | .dex => Sys2Proof.Machine.execDex s
  | .dey => Sys2Proof.Machine.execDey s
  | .mulZpX zz => Sys2Proof.Machine.execMulZpX zz s
  | .divZpX zz => Sys2Proof.Machine.execDivZpX zz s
  | .andIndX zz => Sys2Proof.Machine.execAndIndX zz s
  | .andZp zz => Sys2Proof.Machine.execAndZp zz s
  | .andImm nn => Sys2Proof.Machine.execAndImm nn s
  | .andAbs hhll => Sys2Proof.Machine.execAndAbs hhll s
  | .andIndY zz => Sys2Proof.Machine.execAndIndY zz s
  | .andZpX zz => Sys2Proof.Machine.execAndZpX zz s
  | .andAbsY hhll => Sys2Proof.Machine.execAndAbsY hhll s
  | .andAbsX hhll => Sys2Proof.Machine.execAndAbsX hhll s
  | .oraIndX zz => Sys2Proof.Machine.execOraIndX zz s
  | .oraZp zz => Sys2Proof.Machine.execOraZp zz s
  | .oraImm nn => Sys2Proof.Machine.execOraImm nn s
  | .oraAbs hhll => Sys2Proof.Machine.execOraAbs hhll s
  | .oraIndY zz => Sys2Proof.Machine.execOraIndY zz s
  | .oraZpX zz => Sys2Proof.Machine.execOraZpX zz s
  | .oraAbsY hhll => Sys2Proof.Machine.execOraAbsY hhll s
  | .oraAbsX hhll => Sys2Proof.Machine.execOraAbsX hhll s
  | .eorIndX zz => Sys2Proof.Machine.execEorIndX zz s
  | .eorZp zz => Sys2Proof.Machine.execEorZp zz s
  | .eorImm nn => Sys2Proof.Machine.execEorImm nn s
  | .eorAbs hhll => Sys2Proof.Machine.execEorAbs hhll s
  | .eorIndY zz => Sys2Proof.Machine.execEorIndY zz s
  | .eorZpX zz => Sys2Proof.Machine.execEorZpX zz s
  | .eorAbsY hhll => Sys2Proof.Machine.execEorAbsY hhll s
  | .eorAbsX hhll => Sys2Proof.Machine.execEorAbsX hhll s
  | .comZp zz => Sys2Proof.Machine.execComZp zz s
  | .bitZp zz => Sys2Proof.Machine.execBitZp zz s
  | .bitAbs hhll => Sys2Proof.Machine.execBitAbs hhll s
  | .tstZp zz => Sys2Proof.Machine.execTstZp zz s
  | .cmpIndX zz => Sys2Proof.Machine.execCmpIndX zz s
  | .cmpZp zz => Sys2Proof.Machine.execCmpZp zz s
  | .cmpImm nn => Sys2Proof.Machine.execCmpImm nn s
  | .cmpAbs hhll => Sys2Proof.Machine.execCmpAbs hhll s
  | .cmpIndY zz => Sys2Proof.Machine.execCmpIndY zz s
  | .cmpZpX zz => Sys2Proof.Machine.execCmpZpX zz s
  | .cmpAbsY hhll => Sys2Proof.Machine.execCmpAbsY hhll s
  | .cmpAbsX hhll => Sys2Proof.Machine.execCmpAbsX hhll s
  | .cpxImm nn => Sys2Proof.Machine.execCpxImm nn s
  | .cpxZp zz => Sys2Proof.Machine.execCpxZp zz s
  | .cpxAbs hhll => Sys2Proof.Machine.execCpxAbs hhll s
  | .cpyImm nn => Sys2Proof.Machine.execCpyImm nn s
  | .cpyZp zz => Sys2Proof.Machine.execCpyZp zz s
  | .cpyAbs hhll => Sys2Proof.Machine.execCpyAbs hhll s
  | .aslZp zz => Sys2Proof.Machine.execAslZp zz s
  | .aslAcc => Sys2Proof.Machine.execAslAcc s
  | .aslAbs hhll => Sys2Proof.Machine.execAslAbs hhll s
  | .aslZpX zz => Sys2Proof.Machine.execAslZpX zz s
  | .aslAbsX hhll => Sys2Proof.Machine.execAslAbsX hhll s
  | .lsrZp zz => Sys2Proof.Machine.execLsrZp zz s
  | .lsrAcc => Sys2Proof.Machine.execLsrAcc s
  | .lsrAbs hhll => Sys2Proof.Machine.execLsrAbs hhll s
  | .lsrZpX zz => Sys2Proof.Machine.execLsrZpX zz s
  | .lsrAbsX hhll => Sys2Proof.Machine.execLsrAbsX hhll s
  | .rolZp zz => Sys2Proof.Machine.execRolZp zz s
  | .rolAcc => Sys2Proof.Machine.execRolAcc s
  | .rolAbs hhll => Sys2Proof.Machine.execRolAbs hhll s
  | .rolZpX zz => Sys2Proof.Machine.execRolZpX zz s
  | .rolAbsX hhll => Sys2Proof.Machine.execRolAbsX hhll s
  | .rorZp zz => Sys2Proof.Machine.execRorZp zz s
  | .rorAcc => Sys2Proof.Machine.execRorAcc s
  | .rorAbs hhll => Sys2Proof.Machine.execRorAbs hhll s
  | .rorZpX zz => Sys2Proof.Machine.execRorZpX zz s
  | .rorAbsX hhll => Sys2Proof.Machine.execRorAbsX hhll s
  | .rrfZp zz => Sys2Proof.Machine.execRrfZp zz s
  | .clbAcc b => Sys2Proof.Machine.execClbAcc b s
  | .clbZp b zz => Sys2Proof.Machine.execClbZp b zz s
  | .sebAcc b => Sys2Proof.Machine.execSebAcc b s
  | .sebZp b zz => Sys2Proof.Machine.execSebZp b zz s
  | .clc => Sys2Proof.Machine.execClc s
  | .sec => Sys2Proof.Machine.execSec s
  | .cld => Sys2Proof.Machine.execCld s
  | .sed => Sys2Proof.Machine.execSed s
  | .cli => Sys2Proof.Machine.execCli s
  | .sei => Sys2Proof.Machine.execSei s
  | .clt => Sys2Proof.Machine.execClt s
  | .set => Sys2Proof.Machine.execSet s
  | .clv => Sys2Proof.Machine.execClv s
  | .jmpAbs hhll => Sys2Proof.Machine.execJmpAbs hhll s
  | .jmpInd hhll => Sys2Proof.Machine.execJmpInd hhll s
  | .jmpZpInd zz => Sys2Proof.Machine.execJmpZpInd zz s
  | .bra rr => Sys2Proof.Machine.execBra rr s
  | .bcc rr => Sys2Proof.Machine.execBcc rr s
  | .bcs rr => Sys2Proof.Machine.execBcs rr s
  | .beq rr => Sys2Proof.Machine.execBeq rr s
  | .bne rr => Sys2Proof.Machine.execBne rr s
  | .bmi rr => Sys2Proof.Machine.execBmi rr s
  | .bpl rr => Sys2Proof.Machine.execBpl rr s
  | .bvc rr => Sys2Proof.Machine.execBvc rr s
  | .bvs rr => Sys2Proof.Machine.execBvs rr s
  | .bbcAcc b rr => Sys2Proof.Machine.execBbcAcc b rr s
  | .bbcZp b zz rr => Sys2Proof.Machine.execBbcZp b zz rr s
  | .bbsAcc b rr => Sys2Proof.Machine.execBbsAcc b rr s
  | .bbsZp b zz rr => Sys2Proof.Machine.execBbsZp b zz rr s
  | .jsrZpInd zz => Sys2Proof.Machine.execJsrZpInd zz s
  | .jsrAbs hhll => Sys2Proof.Machine.execJsrAbs hhll s
  | .jsrSp hhll => Sys2Proof.Machine.execJsrSp hhll s
  | .rts => Sys2Proof.Machine.execRts s
  | .rti => Sys2Proof.Machine.execRti s
  | .brk => Sys2Proof.Machine.execBrk s
  | .stp => Sys2Proof.Machine.execStp s
  | .wit => Sys2Proof.Machine.execWit s
  | .nop => Sys2Proof.Machine.execNop s

end Sys2Proof.Machine
end

