-- ==== Sys2Proof/Machine/Environment.lean ====
section
/-! DEFINITION. The environment's moves (R50, D27), hardware reset (R340, R341), and the launch of a program (R52). -/

namespace Sys2Proof.Machine

/-- The direction byte that makes every bit of a port an input (R341). -/
def allInputs (p : Product) : Byte := if p.outputIsOne then 0x00 else 0xFF

/-- The addresses of a region. -/
def Region.addrs (r : Region) : List Addr := (List.range r.size).map fun k => BitVec.ofNat 16 (r.base + k)

/-- The addresses of the port direction registers (R73). -/
def directionAddrs (p : Product) : List Addr :=
  ((p.memoryMap.filter fun r => r.kind = .portDirection).flatMap Region.addrs).filter fun a =>
    kindAt p a = .portDirection

/-- Every port an input, as it comes up after reset (R341, R358). -/
def portsAsInputs (p : Product) (m : Memory) : Memory :=
  (directionAddrs p).foldl (fun m a => Memory.set m a (allInputs p)) m

/-- RESET_PC (R341, D5): the constant, or the word at the vector, low byte at the lower address. How reset reads a vector is
not in the spec: the model takes the bytes held there whatever the kind of the addresses, with no device read and no fault
where MEMORY_MAP has nothing (DESIGN CHOICE, unsafe, log 39). -/
def State.startPc (s : State) : Addr :=
  match s.product.resetPc with
  | .fixed start => start
  | .vector v => cat16 (s.cell (v + 1)) (s.cell v)

/-- Hardware reset (R340, R341): the CPU's state as in `State.reset`, nothing pushed; memory and the device inputs are
kept (the spec states nothing of them, log 25) but for the ports, which are inputs. -/
def hardwareReset (s : State) : State :=
  { State.reset with
    product := s.product
    pc := s.startPc
    mem := portsAsInputs s.product s.mem
    inputs := s.inputs
    draws := s.draws
    env := s.env }

/-- The bits of the byte at `a` that are request or enable bits: of these the environment has move (a) only (R50). -/
def irqBitsAt (p : Product) (a : Addr) : List Nat := requestBitsAt p a ++ enableBitsAt p a

/-- A control register that the environment makes return `v`: its request and enable bits stay as they are (R50). -/
def State.controlShows (s : State) (a : Addr) (v : Byte) : Byte :=
  (s.cell a &&& maskOf (irqBitsAt s.product a)) ||| (v &&& ~~~maskOf (irqBitsAt s.product a))

/-- Move (b) of R50: the byte a device address returns when read becomes `v`: the pins of a port, another device's byte, a
control register but for its request and enable bits. RAM and ROM are no device, and a direction register's reading is
free anyway (R73, log 23). -/
def State.showDevice (s : State) (a : Addr) (v : Byte) : State :=
  match s.kind a with
  | .portLatch _ => s.setInput a v
  | .external => s.setInput a v
  | .control => s.setCell a (s.controlShows a v)
  | .portDirection => s
  | .ram => s
  | .rom => s
  | .unmapped => s

/-- One turn of the environment (R50): it never writes RAM or ROM (but for the byte of a request bit), a register, an
enable bit or PC, and never clears a request bit. -/
def applyTurn (t : Turn) (s : State) : State :=
  match t with
  | .cpu => s
  | .setRequest k =>
    match s.product.irqSources[k]? with
    | some source => s.raiseRequest source
    | none => s
  | .deviceInput a v => s.showDevice a v
  | .reset => hardwareReset s

/-- The reset launch of R52: a product, and a memory image given from outside; every byte it does not list holds what an
unlisted address holds (log 4). -/
def launch (p : Product) (image : List (Addr × Byte)) : State :=
  hardwareReset { State.reset with product := p, mem := Memory.ofImage image }

end Sys2Proof.Machine
end

