-- ==== Sys2Proof/Decode.lean ====
section
/-! DEFINITION. The decoder, total on any bytes, and the encoder, from the opcode map and the formats of
30_encoding.md (R100, R101, R102, R124). -/

namespace Sys2Proof

/-- What an opcode byte says of its instruction: the length 1, 2 or 3 and the instruction as a function of the operand
bytes `b1`, `b2` (R100: the opcode byte alone determines format and length). -/
inductive OpForm where
  | one (i : Instr)
  | two (f : Byte → Instr)
  | three (f : Byte → Byte → Instr)

/-- The instruction's length in bytes (R102). -/
def OpForm.bytes : OpForm → Nat
  | .one _ => 1
  | .two _ => 2
  | .three _ => 3

/-- Why bytes decode to no instruction. -/
inductive DecodeError where
  /-- One of the 25 undefined opcodes (R140). -/
  | undefinedOpcode (op : Byte)
  /-- The operand bytes of the opcode are not all there. -/
  | truncated
deriving DecidableEq, Repr

/-- The bit group, `op[1:0] = 11` (R123 (c)): `op[4:0]` names the instruction, `i = op[7:5]` the bit. -/
def bitGroup (op : Byte) : OpForm :=
  let i := op.toNat / 32
  match op.toNat % 32 with
  | 0x03 => .two fun rr => .bbsAcc i rr
  | 0x13 => .two fun rr => .bbcAcc i rr
  | 0x07 => .three fun zz rr => .bbsZp i zz rr
  | 0x17 => .three fun zz rr => .bbcZp i zz rr
  | 0x0B => .one (.sebAcc i)
  | 0x1B => .one (.clbAcc i)
  | 0x0F => .two fun zz => .sebZp i zz
  | _ => .two fun zz => .clbZp i zz

/-- The opcode map of R101 outside the bit group; an operand `hhll` is stored low byte first (R65, R110), LDM's
immediate before its address (R107), the special page JSR's target has high byte 0xFF (R117). -/
def plainGroup (op : Byte) : Option OpForm :=
  match op.toNat with
  | 0x00 => some (.one .brk)
  | 0x01 => some (.two .oraIndX)
  | 0x02 => some (.two .jsrZpInd)
  | 0x05 => some (.two .oraZp)
  | 0x06 => some (.two .aslZp)
  | 0x08 => some (.one .php)
  | 0x09 => some (.two .oraImm)
  | 0x0A => some (.one .aslAcc)
  | 0x0D => some (.three fun ll hh => .oraAbs (cat16 hh ll))
  | 0x0E => some (.three fun ll hh => .aslAbs (cat16 hh ll))
  | 0x10 => some (.two .bpl)
  | 0x11 => some (.two .oraIndY)
  | 0x12 => some (.one .clt)
  | 0x15 => some (.two .oraZpX)
  | 0x16 => some (.two .aslZpX)
  | 0x18 => some (.one .clc)
  | 0x19 => some (.three fun ll hh => .oraAbsY (cat16 hh ll))
  | 0x1A => some (.one .decAcc)
  | 0x1D => some (.three fun ll hh => .oraAbsX (cat16 hh ll))
  | 0x1E => some (.three fun ll hh => .aslAbsX (cat16 hh ll))
  | 0x20 => some (.three fun ll hh => .jsrAbs (cat16 hh ll))
  | 0x21 => some (.two .andIndX)
  | 0x22 => some (.two fun ll => .jsrSp (cat16 0xFF ll))
  | 0x24 => some (.two .bitZp)
  | 0x25 => some (.two .andZp)
  | 0x26 => some (.two .rolZp)
  | 0x28 => some (.one .plp)
  | 0x29 => some (.two .andImm)
  | 0x2A => some (.one .rolAcc)
  | 0x2C => some (.three fun ll hh => .bitAbs (cat16 hh ll))
  | 0x2D => some (.three fun ll hh => .andAbs (cat16 hh ll))
  | 0x2E => some (.three fun ll hh => .rolAbs (cat16 hh ll))
  | 0x30 => some (.two .bmi)
  | 0x31 => some (.two .andIndY)
  | 0x32 => some (.one .set)
  | 0x35 => some (.two .andZpX)
  | 0x36 => some (.two .rolZpX)
  | 0x38 => some (.one .sec)
  | 0x39 => some (.three fun ll hh => .andAbsY (cat16 hh ll))
  | 0x3A => some (.one .incAcc)
  | 0x3C => some (.three fun nn zz => .ldmZp nn zz)
  | 0x3D => some (.three fun ll hh => .andAbsX (cat16 hh ll))
  | 0x3E => some (.three fun ll hh => .rolAbsX (cat16 hh ll))
  | 0x40 => some (.one .rti)
  | 0x41 => some (.two .eorIndX)
  | 0x42 => some (.one .stp)
  | 0x44 => some (.two .comZp)
  | 0x45 => some (.two .eorZp)
  | 0x46 => some (.two .lsrZp)
  | 0x48 => some (.one .pha)
  | 0x49 => some (.two .eorImm)
  | 0x4A => some (.one .lsrAcc)
  | 0x4C => some (.three fun ll hh => .jmpAbs (cat16 hh ll))
  | 0x4D => some (.three fun ll hh => .eorAbs (cat16 hh ll))
  | 0x4E => some (.three fun ll hh => .lsrAbs (cat16 hh ll))
  | 0x50 => some (.two .bvc)
  | 0x51 => some (.two .eorIndY)
  | 0x55 => some (.two .eorZpX)
  | 0x56 => some (.two .lsrZpX)
  | 0x58 => some (.one .cli)
  | 0x59 => some (.three fun ll hh => .eorAbsY (cat16 hh ll))
  | 0x5D => some (.three fun ll hh => .eorAbsX (cat16 hh ll))
  | 0x5E => some (.three fun ll hh => .lsrAbsX (cat16 hh ll))
  | 0x60 => some (.one .rts)
  | 0x61 => some (.two .adcIndX)
  | 0x62 => some (.two .mulZpX)
  | 0x64 => some (.two .tstZp)
  | 0x65 => some (.two .adcZp)
  | 0x66 => some (.two .rorZp)
  | 0x68 => some (.one .pla)
  | 0x69 => some (.two .adcImm)
  | 0x6A => some (.one .rorAcc)
  | 0x6C => some (.three fun ll hh => .jmpInd (cat16 hh ll))
  | 0x6D => some (.three fun ll hh => .adcAbs (cat16 hh ll))
  | 0x6E => some (.three fun ll hh => .rorAbs (cat16 hh ll))
  | 0x70 => some (.two .bvs)
  | 0x71 => some (.two .adcIndY)
  | 0x75 => some (.two .adcZpX)
  | 0x76 => some (.two .rorZpX)
  | 0x78 => some (.one .sei)
  | 0x79 => some (.three fun ll hh => .adcAbsY (cat16 hh ll))
  | 0x7D => some (.three fun ll hh => .adcAbsX (cat16 hh ll))
  | 0x7E => some (.three fun ll hh => .rorAbsX (cat16 hh ll))
  | 0x80 => some (.two .bra)
  | 0x81 => some (.two .staIndX)
  | 0x82 => some (.two .rrfZp)
  | 0x84 => some (.two .styZp)
  | 0x85 => some (.two .staZp)
  | 0x86 => some (.two .stxZp)
  | 0x88 => some (.one .dey)
  | 0x8A => some (.one .txa)
  | 0x8C => some (.three fun ll hh => .styAbs (cat16 hh ll))
  | 0x8D => some (.three fun ll hh => .staAbs (cat16 hh ll))
  | 0x8E => some (.three fun ll hh => .stxAbs (cat16 hh ll))
  | 0x90 => some (.two .bcc)
  | 0x91 => some (.two .staIndY)
  | 0x94 => some (.two .styZpX)
  | 0x95 => some (.two .staZpX)
  | 0x96 => some (.two .stxZpY)
  | 0x98 => some (.one .tya)
  | 0x99 => some (.three fun ll hh => .staAbsY (cat16 hh ll))
  | 0x9A => some (.one .txs)
  | 0x9D => some (.three fun ll hh => .staAbsX (cat16 hh ll))
  | 0xA0 => some (.two .ldyImm)
  | 0xA1 => some (.two .ldaIndX)
  | 0xA2 => some (.two .ldxImm)
  | 0xA4 => some (.two .ldyZp)
  | 0xA5 => some (.two .ldaZp)
  | 0xA6 => some (.two .ldxZp)
  | 0xA8 => some (.one .tay)
  | 0xA9 => some (.two .ldaImm)
  | 0xAA => some (.one .tax)
  | 0xAC => some (.three fun ll hh => .ldyAbs (cat16 hh ll))
  | 0xAD => some (.three fun ll hh => .ldaAbs (cat16 hh ll))
  | 0xAE => some (.three fun ll hh => .ldxAbs (cat16 hh ll))
  | 0xB0 => some (.two .bcs)
  | 0xB1 => some (.two .ldaIndY)
  | 0xB2 => some (.two .jmpZpInd)
  | 0xB4 => some (.two .ldyZpX)
  | 0xB5 => some (.two .ldaZpX)
  | 0xB6 => some (.two .ldxZpY)
  | 0xB8 => some (.one .clv)
  | 0xB9 => some (.three fun ll hh => .ldaAbsY (cat16 hh ll))
  | 0xBA => some (.one .tsx)
  | 0xBC => some (.three fun ll hh => .ldyAbsX (cat16 hh ll))
  | 0xBD => some (.three fun ll hh => .ldaAbsX (cat16 hh ll))
  | 0xBE => some (.three fun ll hh => .ldxAbsY (cat16 hh ll))
  | 0xC0 => some (.two .cpyImm)
  | 0xC1 => some (.two .cmpIndX)
  | 0xC2 => some (.one .wit)
  | 0xC4 => some (.two .cpyZp)
  | 0xC5 => some (.two .cmpZp)
  | 0xC6 => some (.two .decZp)
  | 0xC8 => some (.one .iny)
  | 0xC9 => some (.two .cmpImm)
  | 0xCA => some (.one .dex)
  | 0xCC => some (.three fun ll hh => .cpyAbs (cat16 hh ll))
  | 0xCD => some (.three fun ll hh => .cmpAbs (cat16 hh ll))
  | 0xCE => some (.three fun ll hh => .decAbs (cat16 hh ll))
  | 0xD0 => some (.two .bne)
  | 0xD1 => some (.two .cmpIndY)
  | 0xD5 => some (.two .cmpZpX)
  | 0xD6 => some (.two .decZpX)
  | 0xD8 => some (.one .cld)
  | 0xD9 => some (.three fun ll hh => .cmpAbsY (cat16 hh ll))
  | 0xDD => some (.three fun ll hh => .cmpAbsX (cat16 hh ll))
  | 0xDE => some (.three fun ll hh => .decAbsX (cat16 hh ll))
  | 0xE0 => some (.two .cpxImm)
  | 0xE1 => some (.two .sbcIndX)
  | 0xE2 => some (.two .divZpX)
  | 0xE4 => some (.two .cpxZp)
  | 0xE5 => some (.two .sbcZp)
  | 0xE6 => some (.two .incZp)
  | 0xE8 => some (.one .inx)
  | 0xE9 => some (.two .sbcImm)
  | 0xEA => some (.one .nop)
  | 0xEC => some (.three fun ll hh => .cpxAbs (cat16 hh ll))
  | 0xED => some (.three fun ll hh => .sbcAbs (cat16 hh ll))
  | 0xEE => some (.three fun ll hh => .incAbs (cat16 hh ll))
  | 0xF0 => some (.two .beq)
  | 0xF1 => some (.two .sbcIndY)
  | 0xF5 => some (.two .sbcZpX)
  | 0xF6 => some (.two .incZpX)
  | 0xF8 => some (.one .sed)
  | 0xF9 => some (.three fun ll hh => .sbcAbsY (cat16 hh ll))
  | 0xFD => some (.three fun ll hh => .sbcAbsX (cat16 hh ll))
  | 0xFE => some (.three fun ll hh => .incAbsX (cat16 hh ll))
  | _ => none

/-- The opcode map (R101); `none` for the 25 undefined opcodes (R140). -/
def decodeOp (op : Byte) : Option OpForm :=
  if op.toNat % 4 = 3 then some (bitGroup op) else plainGroup op

/-- The instruction at the head of a list of bytes (R16 (3), R100). -/
def decode : List Byte → Except DecodeError Instr
  | [] => .error .truncated
  | op :: rest =>
    match decodeOp op with
    | none => .error (.undefinedOpcode op)
    | some (.one i) => .ok i
    | some (.two f) =>
      match rest with
      | b1 :: _ => .ok (f b1)
      | [] => .error .truncated
    | some (.three f) =>
      match rest with
      | b1 :: b2 :: _ => .ok (f b1 b2)
      | _ => .error .truncated

/-- The opcode byte of a bit instruction: `i * 0x20 + base` (R123 (c)). -/
def bitOpcode (base i : Nat) : Byte := BitVec.ofNat 8 (0x20 * i + base)

/-- The bytes of an instruction, in memory order (R65, R100, R101). -/
def encode : Instr → List Byte
  | .ldaIndX zz => [0xA1, zz]
  | .ldaZp zz => [0xA5, zz]
  | .ldaImm nn => [0xA9, nn]
  | .ldaAbs hhll => [0xAD, loByte hhll, hiByte hhll]
  | .ldaIndY zz => [0xB1, zz]
  | .ldaZpX zz => [0xB5, zz]
  | .ldaAbsY hhll => [0xB9, loByte hhll, hiByte hhll]
  | .ldaAbsX hhll => [0xBD, loByte hhll, hiByte hhll]
  | .ldmZp nn zz => [0x3C, nn, zz]
  | .ldxImm nn => [0xA2, nn]
  | .ldxZp zz => [0xA6, zz]
  | .ldxAbs hhll => [0xAE, loByte hhll, hiByte hhll]
  | .ldxZpY zz => [0xB6, zz]
  | .ldxAbsY hhll => [0xBE, loByte hhll, hiByte hhll]
  | .ldyImm nn => [0xA0, nn]
  | .ldyZp zz => [0xA4, zz]
  | .ldyAbs hhll => [0xAC, loByte hhll, hiByte hhll]
  | .ldyZpX zz => [0xB4, zz]
  | .ldyAbsX hhll => [0xBC, loByte hhll, hiByte hhll]
  | .staIndX zz => [0x81, zz]
  | .staZp zz => [0x85, zz]
  | .staAbs hhll => [0x8D, loByte hhll, hiByte hhll]
  | .staIndY zz => [0x91, zz]
  | .staZpX zz => [0x95, zz]
  | .staAbsY hhll => [0x99, loByte hhll, hiByte hhll]
  | .staAbsX hhll => [0x9D, loByte hhll, hiByte hhll]
  | .stxZp zz => [0x86, zz]
  | .stxAbs hhll => [0x8E, loByte hhll, hiByte hhll]
  | .stxZpY zz => [0x96, zz]
  | .styZp zz => [0x84, zz]
  | .styAbs hhll => [0x8C, loByte hhll, hiByte hhll]
  | .styZpX zz => [0x94, zz]
  | .tax => [0xAA]
  | .txa => [0x8A]
  | .tay => [0xA8]
  | .tya => [0x98]
  | .tsx => [0xBA]
  | .txs => [0x9A]
  | .pha => [0x48]
  | .php => [0x08]
  | .pla => [0x68]
  | .plp => [0x28]
  | .adcIndX zz => [0x61, zz]
  | .adcZp zz => [0x65, zz]
  | .adcImm nn => [0x69, nn]
  | .adcAbs hhll => [0x6D, loByte hhll, hiByte hhll]
  | .adcIndY zz => [0x71, zz]
  | .adcZpX zz => [0x75, zz]
  | .adcAbsY hhll => [0x79, loByte hhll, hiByte hhll]
  | .adcAbsX hhll => [0x7D, loByte hhll, hiByte hhll]
  | .sbcIndX zz => [0xE1, zz]
  | .sbcZp zz => [0xE5, zz]
  | .sbcImm nn => [0xE9, nn]
  | .sbcAbs hhll => [0xED, loByte hhll, hiByte hhll]
  | .sbcIndY zz => [0xF1, zz]
  | .sbcZpX zz => [0xF5, zz]
  | .sbcAbsY hhll => [0xF9, loByte hhll, hiByte hhll]
  | .sbcAbsX hhll => [0xFD, loByte hhll, hiByte hhll]
  | .incAcc => [0x3A]
  | .incZp zz => [0xE6, zz]
  | .incAbs hhll => [0xEE, loByte hhll, hiByte hhll]
  | .incZpX zz => [0xF6, zz]
  | .incAbsX hhll => [0xFE, loByte hhll, hiByte hhll]
  | .decAcc => [0x1A]
  | .decZp zz => [0xC6, zz]
  | .decAbs hhll => [0xCE, loByte hhll, hiByte hhll]
  | .decZpX zz => [0xD6, zz]
  | .decAbsX hhll => [0xDE, loByte hhll, hiByte hhll]
  | .inx => [0xE8]
  | .iny => [0xC8]
  | .dex => [0xCA]
  | .dey => [0x88]
  | .mulZpX zz => [0x62, zz]
  | .divZpX zz => [0xE2, zz]
  | .andIndX zz => [0x21, zz]
  | .andZp zz => [0x25, zz]
  | .andImm nn => [0x29, nn]
  | .andAbs hhll => [0x2D, loByte hhll, hiByte hhll]
  | .andIndY zz => [0x31, zz]
  | .andZpX zz => [0x35, zz]
  | .andAbsY hhll => [0x39, loByte hhll, hiByte hhll]
  | .andAbsX hhll => [0x3D, loByte hhll, hiByte hhll]
  | .oraIndX zz => [0x01, zz]
  | .oraZp zz => [0x05, zz]
  | .oraImm nn => [0x09, nn]
  | .oraAbs hhll => [0x0D, loByte hhll, hiByte hhll]
  | .oraIndY zz => [0x11, zz]
  | .oraZpX zz => [0x15, zz]
  | .oraAbsY hhll => [0x19, loByte hhll, hiByte hhll]
  | .oraAbsX hhll => [0x1D, loByte hhll, hiByte hhll]
  | .eorIndX zz => [0x41, zz]
  | .eorZp zz => [0x45, zz]
  | .eorImm nn => [0x49, nn]
  | .eorAbs hhll => [0x4D, loByte hhll, hiByte hhll]
  | .eorIndY zz => [0x51, zz]
  | .eorZpX zz => [0x55, zz]
  | .eorAbsY hhll => [0x59, loByte hhll, hiByte hhll]
  | .eorAbsX hhll => [0x5D, loByte hhll, hiByte hhll]
  | .comZp zz => [0x44, zz]
  | .bitZp zz => [0x24, zz]
  | .bitAbs hhll => [0x2C, loByte hhll, hiByte hhll]
  | .tstZp zz => [0x64, zz]
  | .cmpIndX zz => [0xC1, zz]
  | .cmpZp zz => [0xC5, zz]
  | .cmpImm nn => [0xC9, nn]
  | .cmpAbs hhll => [0xCD, loByte hhll, hiByte hhll]
  | .cmpIndY zz => [0xD1, zz]
  | .cmpZpX zz => [0xD5, zz]
  | .cmpAbsY hhll => [0xD9, loByte hhll, hiByte hhll]
  | .cmpAbsX hhll => [0xDD, loByte hhll, hiByte hhll]
  | .cpxImm nn => [0xE0, nn]
  | .cpxZp zz => [0xE4, zz]
  | .cpxAbs hhll => [0xEC, loByte hhll, hiByte hhll]
  | .cpyImm nn => [0xC0, nn]
  | .cpyZp zz => [0xC4, zz]
  | .cpyAbs hhll => [0xCC, loByte hhll, hiByte hhll]
  | .aslZp zz => [0x06, zz]
  | .aslAcc => [0x0A]
  | .aslAbs hhll => [0x0E, loByte hhll, hiByte hhll]
  | .aslZpX zz => [0x16, zz]
  | .aslAbsX hhll => [0x1E, loByte hhll, hiByte hhll]
  | .lsrZp zz => [0x46, zz]
  | .lsrAcc => [0x4A]
  | .lsrAbs hhll => [0x4E, loByte hhll, hiByte hhll]
  | .lsrZpX zz => [0x56, zz]
  | .lsrAbsX hhll => [0x5E, loByte hhll, hiByte hhll]
  | .rolZp zz => [0x26, zz]
  | .rolAcc => [0x2A]
  | .rolAbs hhll => [0x2E, loByte hhll, hiByte hhll]
  | .rolZpX zz => [0x36, zz]
  | .rolAbsX hhll => [0x3E, loByte hhll, hiByte hhll]
  | .rorZp zz => [0x66, zz]
  | .rorAcc => [0x6A]
  | .rorAbs hhll => [0x6E, loByte hhll, hiByte hhll]
  | .rorZpX zz => [0x76, zz]
  | .rorAbsX hhll => [0x7E, loByte hhll, hiByte hhll]
  | .rrfZp zz => [0x82, zz]
  | .clbAcc i => [bitOpcode 0x1B i]
  | .clbZp i zz => [bitOpcode 0x1F i, zz]
  | .sebAcc i => [bitOpcode 0x0B i]
  | .sebZp i zz => [bitOpcode 0x0F i, zz]
  | .clc => [0x18]
  | .sec => [0x38]
  | .cld => [0xD8]
  | .sed => [0xF8]
  | .cli => [0x58]
  | .sei => [0x78]
  | .clt => [0x12]
  | .set => [0x32]
  | .clv => [0xB8]
  | .jmpAbs hhll => [0x4C, loByte hhll, hiByte hhll]
  | .jmpInd hhll => [0x6C, loByte hhll, hiByte hhll]
  | .jmpZpInd zz => [0xB2, zz]
  | .bra rr => [0x80, rr]
  | .bcc rr => [0x90, rr]
  | .bcs rr => [0xB0, rr]
  | .beq rr => [0xF0, rr]
  | .bne rr => [0xD0, rr]
  | .bmi rr => [0x30, rr]
  | .bpl rr => [0x10, rr]
  | .bvc rr => [0x50, rr]
  | .bvs rr => [0x70, rr]
  | .bbcAcc i rr => [bitOpcode 0x13 i, rr]
  | .bbcZp i zz rr => [bitOpcode 0x17 i, zz, rr]
  | .bbsAcc i rr => [bitOpcode 0x03 i, rr]
  | .bbsZp i zz rr => [bitOpcode 0x07 i, zz, rr]
  | .jsrZpInd zz => [0x02, zz]
  | .jsrAbs hhll => [0x20, loByte hhll, hiByte hhll]
  | .jsrSp hhll => [0x22, loByte hhll]
  | .rts => [0x60]
  | .rti => [0x40]
  | .brk => [0x00]
  | .stp => [0x42]
  | .wit => [0xC2]
  | .nop => [0xEA]

/-- The three bytes of the number `w` of an opcode-table row, bit 0 the least significant bit of the first byte; bits
from `nbits` on are 0. -/
def tableBytes (nbits w : Nat) : List Byte :=
  let v := w % 2 ^ nbits
  [BitVec.ofNat 8 v, BitVec.ofNat 8 (v / 256), BitVec.ofNat 8 (v / 65536)]

/-- The instruction the decoder reads from an instruction whose bits are `w` (`nbits` of them given, the rest 0). -/
def decodeTableWord (nbits w : Nat) : Option Instr :=
  match decode (tableBytes nbits w) with
  | .ok i => some i
  | .error _ => none

end Sys2Proof
end

