-- ==== Sys2Proof/Machine/Fetch.lean ====
section
/-! DEFINITION. The fetch of an instruction at PC (R16 (2), (3)) and the checks the fetch makes against the hazard
shadows (R350, R352, R355). -/

namespace Sys2Proof.Machine

/-- The address of byte `k` of the instruction at PC, modulo 65536 (R14, R27, R65). -/
def State.codeAddr (s : State) (k : Nat) : Addr := s.pc + BitVec.ofNat 16 k

/-- The refusal an opcode meets at its fetch by the shadows the previous instruction left, on the opcode alone (R354): any
but NOP's after PLP (R350), those of SEC, CLC, CLD after decimal arithmetic (R355). -/
def opcodeHazard (op : Byte) (s : State) : Option Refusal :=
  if s.lastWasPlp && op != 0xEA then some .plpSuccessor
  else if s.lastWasDecimal && (op = 0x38 || op = 0x18 || op = 0xD8) then some .decimalSuccessor
  else none

/-- The opcode map of a product: without HAS_MULDIV the opcodes of MUL and DIV are undefined (R6, R142). -/
def opcodeForm (p : Product) (op : Byte) : Option OpForm :=
  if !p.hasMulDiv && (op = 0x62 || op = 0xE2) then none else decodeOp op

/-- Exactly the operand bytes the form has, fetched (R16, R100). -/
def fetchOperands (f : OpForm) (s : State) : Res Instr :=
  match f with
  | .one i => .next i
  | .two g => andThen (readByte .operand1 (s.codeAddr 1) s) fun b1 => .next (g b1)
  | .three g =>
    andThen (readByte .operand1 (s.codeAddr 1) s) fun b1 =>
    andThen (readByte .operand2 (s.codeAddr 2) s) fun b2 => .next (g b1 b2)

/-- A BBC or BBS of a zero-page bit tests one of the request bits the shadow names (R352). -/
def testsTouched (t : Option (Addr × List Nat)) (i : Nat) (zz : Byte) : Bool :=
  match t with
  | none => false
  | some (a, bits) => decide (zext16 zz = a) && decide (i ∈ bits)

/-- The instruction tests a request bit that the previous one wrote (R352). -/
def requestHazard (i : Instr) (s : State) : Bool :=
  match i with
  | .bbcZp b zz _ => testsTouched s.touched b zz
  | .bbsZp b zz _ => testsTouched s.touched b zz
  | _ => false

/-- The instruction the step will run (R16 (2), (3)): its opcode fetched, permitted by the shadows and defined in this
product, then its operands fetched, then the check of R352. Where an opcode is both forbidden after PLP and undefined the
first name is given (log 37). -/
def fetchPermitted (s : State) : Res Instr :=
  andThen (readByte .opcode s.pc s) fun op =>
    match opcodeHazard op s, opcodeForm s.product op with
    | some r, _ => .refused r
    | none, none => .refused (.undefinedOpcode op s.pc)
    | none, some f =>
      andThen (fetchOperands f s) fun i => if requestHazard i s then .refused .requestBitSuccessor else .next i

/-- The state with `bytes` held from `a` on, whatever the kind of the addresses. -/
def storeBytes (s : State) (a : Addr) : List Byte → State
  | [] => s
  | b :: bs => storeBytes (s.setCell a b) (a + 1) bs

end Sys2Proof.Machine
end

