-- ==== Sys2Proof/Machine/Turn.lean ====
section
/-! DEFINITION. Whose turn it is and what it does (R16, R50): the CPU's, or a move of the environment. -/

namespace Sys2Proof.Machine

/-- The counter the free values of this step are drawn by, advanced (log 11). -/
def State.tick (s : State) : State := { s with draws := s.draws + 1 }

/-- The turns to come written. -/
def State.withEnv (s : State) (turns : List Turn) : State := { s with env := turns }

/-- The instruction the fetch permits, run (R16 (2) to (4)). -/
def runInstr (s : State) : Host.Outcome State Fault Refusal :=
  andThen (fetchPermitted s) fun i => exec i s

/-- One step of the CPU: interrupt entry when a source is acceptable, in every run state (R16 (1), R310, R325); else
one instruction while Running; else, in Wait or Stop, no change (R326, log 15). -/
def cpuStep (s : State) : Host.Outcome State Fault Refusal :=
  match s.acceptable with
  | some k => interruptEntry k s.tick
  | none =>
    match s.runState with
    | .running => runInstr s.tick
    | .wait => .next s
    | .stop => .next s

/-- The first of the turns to come, the CPU's when none is listed (R50, log 12). -/
def turnStep (s : State) : Host.Outcome State Fault Refusal :=
  match s.env with
  | [] => cpuStep s
  | .cpu :: rest => cpuStep (s.withEnv rest)
  | turn :: rest => .next (applyTurn turn (s.withEnv rest))

end Sys2Proof.Machine
end

