-- ==== Sys2Proof/Machine/Step.lean ====
section
/-! DEFINITION. The step, and a word placed where the next step fetches. -/

namespace Sys2Proof.Machine

/-- One step of the machine (R16, R50). -/
def step (s : State) : Host.Outcome State Fault Refusal := turnStep s

/-- `s` with the instruction of an opcode-table number stored at PC, so that the next step fetches and runs it: besides
the bytes, only what would keep the CPU from fetching is changed (an environment turn before it, Wait or Stop, an
acceptable interrupt, a hazard shadow). It stands for the load of a program from outside (R52, log 13). -/
def State.withFetchWord (s : State) (nbits w : Nat) : State :=
  let t := storeBytes s s.pc (tableBytes nbits w)
  let u := { t with
    env := match t.env with
      | [] => []
      | turn :: rest => if turn = Turn.cpu then turn :: rest else .cpu :: turn :: rest
    runState := .running
    lastWasPlp := false
    lastWasDecimal := false
    touched := none
    stale := [] }
  match u.acceptable with
  | some _ => u.setFlag .i true
  | none => u

end Sys2Proof.Machine
end

