-- ==== Sys2Proof/Machine/Forms.lean ====
section
/-! DEFINITION. The instructions read as the manual lists them: a mnemonic (R2) and the form of its operands (R103). The
meanings do not use this reading; statements and the cycle counts do. -/

namespace Sys2Proof.Machine

/-- The 71 mnemonics (R2). -/
inductive Mnemonic where
  | adc
  | and
  | asl
  | bbc
  | bbs
  | bcc
  | bcs
  | beq
  | bit
  | bmi
  | bne
  | bpl
  | bra
  | brk
  | bvc
  | bvs
  | clb
  | clc
  | cld
  | cli
  | clt
  | clv
  | cmp
  | com
  | cpx
  | cpy
  | dec
  | dex
  | dey
  | div
  | eor
  | inc
  | inx
  | iny
  | jmp
  | jsr
  | lda
  | ldm
  | ldx
  | ldy
  | lsr
  | mul
  | nop
  | ora
  | pha
  | php
  | pla
  | plp
  | rol
  | ror
  | rrf
  | rti
  | rts
  | sbc
  | seb
  | sec
  | sed
  | sei
  | set
  | sta
  | stp
  | stx
  | sty
  | tax
  | tay
  | tst
  | tsx
  | txa
  | txs
  | tya
  | wit
deriving DecidableEq, Repr

/-- The operands an instruction names (R103): none; a byte operand M; the target of a read-modify-write; bit `i` of A or
of a zero-page byte; a displacement; a bit and a displacement; an immediate byte and a zero-page address (LDM); and the
four ways a jump or call names its target. -/
inductive Form where
  | implied
  | operand (o : Operand)
  | target (g : Target)
  | bit (i : Nat) (g : Target)
  | rel (rr : Byte)
  | bitRel (i : Nat) (g : Target) (rr : Byte)
  | ldm (nn zz : Byte)
  | jump (hhll : Addr)
  | jumpInd (hhll : Addr)
  | zpInd (zz : Byte)
  | special (hhll : Addr)
deriving DecidableEq, Repr

/-- The mnemonic and the form of each row of the opcode table (R101). -/
def shape : Instr → Mnemonic × Form
  | .ldaIndX zz => (.lda, .operand (.mem (.indX zz)))
  | .ldaZp zz => (.lda, .operand (.mem (.zp zz)))
  | .ldaImm nn => (.lda, .operand (.imm nn))
  | .ldaAbs hhll => (.lda, .operand (.mem (.abs hhll)))
  | .ldaIndY zz => (.lda, .operand (.mem (.indY zz)))
  | .ldaZpX zz => (.lda, .operand (.mem (.zpX zz)))
  | .ldaAbsY hhll => (.lda, .operand (.mem (.absY hhll)))
  | .ldaAbsX hhll => (.lda, .operand (.mem (.absX hhll)))
  | .ldmZp nn zz => (.ldm, .ldm nn zz)
  | .ldxImm nn => (.ldx, .operand (.imm nn))
  | .ldxZp zz => (.ldx, .operand (.mem (.zp zz)))
  | .ldxAbs hhll => (.ldx, .operand (.mem (.abs hhll)))
  | .ldxZpY zz => (.ldx, .operand (.mem (.zpY zz)))
  | .ldxAbsY hhll => (.ldx, .operand (.mem (.absY hhll)))
  | .ldyImm nn => (.ldy, .operand (.imm nn))
  | .ldyZp zz => (.ldy, .operand (.mem (.zp zz)))
  | .ldyAbs hhll => (.ldy, .operand (.mem (.abs hhll)))
  | .ldyZpX zz => (.ldy, .operand (.mem (.zpX zz)))
  | .ldyAbsX hhll => (.ldy, .operand (.mem (.absX hhll)))
  | .staIndX zz => (.sta, .operand (.mem (.indX zz)))
  | .staZp zz => (.sta, .operand (.mem (.zp zz)))
  | .staAbs hhll => (.sta, .operand (.mem (.abs hhll)))
  | .staIndY zz => (.sta, .operand (.mem (.indY zz)))
  | .staZpX zz => (.sta, .operand (.mem (.zpX zz)))
  | .staAbsY hhll => (.sta, .operand (.mem (.absY hhll)))
  | .staAbsX hhll => (.sta, .operand (.mem (.absX hhll)))
  | .stxZp zz => (.stx, .operand (.mem (.zp zz)))
  | .stxAbs hhll => (.stx, .operand (.mem (.abs hhll)))
  | .stxZpY zz => (.stx, .operand (.mem (.zpY zz)))
  | .styZp zz => (.sty, .operand (.mem (.zp zz)))
  | .styAbs hhll => (.sty, .operand (.mem (.abs hhll)))
  | .styZpX zz => (.sty, .operand (.mem (.zpX zz)))
  | .tax => (.tax, .implied)
  | .txa => (.txa, .implied)
  | .tay => (.tay, .implied)
  | .tya => (.tya, .implied)
  | .tsx => (.tsx, .implied)
  | .txs => (.txs, .implied)
  | .pha => (.pha, .implied)
  | .php => (.php, .implied)
  | .pla => (.pla, .implied)
  | .plp => (.plp, .implied)
  | .adcIndX zz => (.adc, .operand (.mem (.indX zz)))
  | .adcZp zz => (.adc, .operand (.mem (.zp zz)))
  | .adcImm nn => (.adc, .operand (.imm nn))
  | .adcAbs hhll => (.adc, .operand (.mem (.abs hhll)))
  | .adcIndY zz => (.adc, .operand (.mem (.indY zz)))
  | .adcZpX zz => (.adc, .operand (.mem (.zpX zz)))
  | .adcAbsY hhll => (.adc, .operand (.mem (.absY hhll)))
  | .adcAbsX hhll => (.adc, .operand (.mem (.absX hhll)))
  | .sbcIndX zz => (.sbc, .operand (.mem (.indX zz)))
  | .sbcZp zz => (.sbc, .operand (.mem (.zp zz)))
  | .sbcImm nn => (.sbc, .operand (.imm nn))
  | .sbcAbs hhll => (.sbc, .operand (.mem (.abs hhll)))
  | .sbcIndY zz => (.sbc, .operand (.mem (.indY zz)))
  | .sbcZpX zz => (.sbc, .operand (.mem (.zpX zz)))
  | .sbcAbsY hhll => (.sbc, .operand (.mem (.absY hhll)))
  | .sbcAbsX hhll => (.sbc, .operand (.mem (.absX hhll)))
  | .incAcc => (.inc, .target .acc)
  | .incZp zz => (.inc, .target (.mem (.zp zz)))
  | .incAbs hhll => (.inc, .target (.mem (.abs hhll)))
  | .incZpX zz => (.inc, .target (.mem (.zpX zz)))
  | .incAbsX hhll => (.inc, .target (.mem (.absX hhll)))
  | .decAcc => (.dec, .target .acc)
  | .decZp zz => (.dec, .target (.mem (.zp zz)))
  | .decAbs hhll => (.dec, .target (.mem (.abs hhll)))
  | .decZpX zz => (.dec, .target (.mem (.zpX zz)))
  | .decAbsX hhll => (.dec, .target (.mem (.absX hhll)))
  | .inx => (.inx, .implied)
  | .iny => (.iny, .implied)
  | .dex => (.dex, .implied)
  | .dey => (.dey, .implied)
  | .mulZpX zz => (.mul, .operand (.mem (.zpX zz)))
  | .divZpX zz => (.div, .operand (.mem (.zpX zz)))
  | .andIndX zz => (.and, .operand (.mem (.indX zz)))
  | .andZp zz => (.and, .operand (.mem (.zp zz)))
  | .andImm nn => (.and, .operand (.imm nn))
  | .andAbs hhll => (.and, .operand (.mem (.abs hhll)))
  | .andIndY zz => (.and, .operand (.mem (.indY zz)))
  | .andZpX zz => (.and, .operand (.mem (.zpX zz)))
  | .andAbsY hhll => (.and, .operand (.mem (.absY hhll)))
  | .andAbsX hhll => (.and, .operand (.mem (.absX hhll)))
  | .oraIndX zz => (.ora, .operand (.mem (.indX zz)))
  | .oraZp zz => (.ora, .operand (.mem (.zp zz)))
  | .oraImm nn => (.ora, .operand (.imm nn))
  | .oraAbs hhll => (.ora, .operand (.mem (.abs hhll)))
  | .oraIndY zz => (.ora, .operand (.mem (.indY zz)))
  | .oraZpX zz => (.ora, .operand (.mem (.zpX zz)))
  | .oraAbsY hhll => (.ora, .operand (.mem (.absY hhll)))
  | .oraAbsX hhll => (.ora, .operand (.mem (.absX hhll)))
  | .eorIndX zz => (.eor, .operand (.mem (.indX zz)))
  | .eorZp zz => (.eor, .operand (.mem (.zp zz)))
  | .eorImm nn => (.eor, .operand (.imm nn))
  | .eorAbs hhll => (.eor, .operand (.mem (.abs hhll)))
  | .eorIndY zz => (.eor, .operand (.mem (.indY zz)))
  | .eorZpX zz => (.eor, .operand (.mem (.zpX zz)))
  | .eorAbsY hhll => (.eor, .operand (.mem (.absY hhll)))
  | .eorAbsX hhll => (.eor, .operand (.mem (.absX hhll)))
  | .comZp zz => (.com, .target (.mem (.zp zz)))
  | .bitZp zz => (.bit, .operand (.mem (.zp zz)))
  | .bitAbs hhll => (.bit, .operand (.mem (.abs hhll)))
  | .tstZp zz => (.tst, .operand (.mem (.zp zz)))
  | .cmpIndX zz => (.cmp, .operand (.mem (.indX zz)))
  | .cmpZp zz => (.cmp, .operand (.mem (.zp zz)))
  | .cmpImm nn => (.cmp, .operand (.imm nn))
  | .cmpAbs hhll => (.cmp, .operand (.mem (.abs hhll)))
  | .cmpIndY zz => (.cmp, .operand (.mem (.indY zz)))
  | .cmpZpX zz => (.cmp, .operand (.mem (.zpX zz)))
  | .cmpAbsY hhll => (.cmp, .operand (.mem (.absY hhll)))
  | .cmpAbsX hhll => (.cmp, .operand (.mem (.absX hhll)))
  | .cpxImm nn => (.cpx, .operand (.imm nn))
  | .cpxZp zz => (.cpx, .operand (.mem (.zp zz)))
  | .cpxAbs hhll => (.cpx, .operand (.mem (.abs hhll)))
  | .cpyImm nn => (.cpy, .operand (.imm nn))
  | .cpyZp zz => (.cpy, .operand (.mem (.zp zz)))
  | .cpyAbs hhll => (.cpy, .operand (.mem (.abs hhll)))
  | .aslZp zz => (.asl, .target (.mem (.zp zz)))
  | .aslAcc => (.asl, .target .acc)
  | .aslAbs hhll => (.asl, .target (.mem (.abs hhll)))
  | .aslZpX zz => (.asl, .target (.mem (.zpX zz)))
  | .aslAbsX hhll => (.asl, .target (.mem (.absX hhll)))
  | .lsrZp zz => (.lsr, .target (.mem (.zp zz)))
  | .lsrAcc => (.lsr, .target .acc)
  | .lsrAbs hhll => (.lsr, .target (.mem (.abs hhll)))
  | .lsrZpX zz => (.lsr, .target (.mem (.zpX zz)))
  | .lsrAbsX hhll => (.lsr, .target (.mem (.absX hhll)))
  | .rolZp zz => (.rol, .target (.mem (.zp zz)))
  | .rolAcc => (.rol, .target .acc)
  | .rolAbs hhll => (.rol, .target (.mem (.abs hhll)))
  | .rolZpX zz => (.rol, .target (.mem (.zpX zz)))
  | .rolAbsX hhll => (.rol, .target (.mem (.absX hhll)))
  | .rorZp zz => (.ror, .target (.mem (.zp zz)))
  | .rorAcc => (.ror, .target .acc)
  | .rorAbs hhll => (.ror, .target (.mem (.abs hhll)))
  | .rorZpX zz => (.ror, .target (.mem (.zpX zz)))
  | .rorAbsX hhll => (.ror, .target (.mem (.absX hhll)))
  | .rrfZp zz => (.rrf, .target (.mem (.zp zz)))
  | .clbAcc i => (.clb, .bit i .acc)
  | .clbZp i zz => (.clb, .bit i (.mem (.zp zz)))
  | .sebAcc i => (.seb, .bit i .acc)
  | .sebZp i zz => (.seb, .bit i (.mem (.zp zz)))
  | .clc => (.clc, .implied)
  | .sec => (.sec, .implied)
  | .cld => (.cld, .implied)
  | .sed => (.sed, .implied)
  | .cli => (.cli, .implied)
  | .sei => (.sei, .implied)
  | .clt => (.clt, .implied)
  | .set => (.set, .implied)
  | .clv => (.clv, .implied)
  | .jmpAbs hhll => (.jmp, .jump hhll)
  | .jmpInd hhll => (.jmp, .jumpInd hhll)
  | .jmpZpInd zz => (.jmp, .zpInd zz)
  | .bra rr => (.bra, .rel rr)
  | .bcc rr => (.bcc, .rel rr)
  | .bcs rr => (.bcs, .rel rr)
  | .beq rr => (.beq, .rel rr)
  | .bne rr => (.bne, .rel rr)
  | .bmi rr => (.bmi, .rel rr)
  | .bpl rr => (.bpl, .rel rr)
  | .bvc rr => (.bvc, .rel rr)
  | .bvs rr => (.bvs, .rel rr)
  | .bbcAcc i rr => (.bbc, .bitRel i .acc rr)
  | .bbcZp i zz rr => (.bbc, .bitRel i (.mem (.zp zz)) rr)
  | .bbsAcc i rr => (.bbs, .bitRel i .acc rr)
  | .bbsZp i zz rr => (.bbs, .bitRel i (.mem (.zp zz)) rr)
  | .jsrZpInd zz => (.jsr, .zpInd zz)
  | .jsrAbs hhll => (.jsr, .jump hhll)
  | .jsrSp hhll => (.jsr, .special hhll)
  | .rts => (.rts, .implied)
  | .rti => (.rti, .implied)
  | .brk => (.brk, .implied)
  | .stp => (.stp, .implied)
  | .wit => (.wit, .implied)
  | .nop => (.nop, .implied)

/-- The mnemonic of an instruction (R2). -/
def mnemonic (i : Instr) : Mnemonic := (shape i).1

/-- The length in bytes of an instruction of a form (R102). -/
def formLength : Form → Nat
  | .implied => 1
  | .operand o => operandLength o
  | .target g => targetLength g
  | .bit _ g => targetLength g
  | .rel _ => 2
  | .bitRel _ g _ => targetLength g + 1
  | .ldm _ _ => 3
  | .jump _ => 3
  | .jumpInd _ => 3
  | .zpInd _ => 2
  | .special _ => 2

/-- The length in bytes of an instruction (R102). -/
def instrLength (i : Instr) : Nat := formLength (shape i).2

end Sys2Proof.Machine
end

