-- ==== Sys2Proof/Machine/Timing.lean ====
section
/-! DEFINITION. The cycle counts of the internal clock (R363, R364), as a function of the instruction and the state it
starts in. Timing is informative only (R362): no step reads them (log 32). -/

namespace Sys2Proof.Machine

/-- Cycles of an instruction that reads its operand (R363). -/
def readCycles : Operand → Nat
  | .imm _ => 2
  | .mem (.zp _) => 3
  | .mem (.zpX _) => 4
  | .mem (.zpY _) => 4
  | .mem (.abs _) => 4
  | .mem (.absX _) => 5
  | .mem (.absY _) => 5
  | .mem (.indX _) => 6
  | .mem (.indY _) => 6

/-- Cycles of a read-modify-write, a read and two more (R363). -/
def modifyCycles : Target → Nat
  | .acc => 2
  | .mem m => readCycles (.mem m) + 2

/-- Cycles of an instruction without operands (R363). -/
def impliedCycles : Mnemonic → Nat
  | .pha => 3
  | .php => 3
  | .pla => 4
  | .plp => 4
  | .rts => 6
  | .rti => 6
  | .brk => 7
  | _ => 2

/-- Cycles of an instruction with a byte operand and T = 0 (R363). -/
def operandCycles (m : Mnemonic) (o : Operand) : Nat :=
  match m with
  | .sta => readCycles o + 1
  | .stx => readCycles o + 1
  | .sty => readCycles o + 1
  | .mul => 15
  | .div => 16
  | _ => readCycles o

/-- The base count: T = 0, branch not taken (R363). -/
def baseCycles (m : Mnemonic) : Form → Nat
  | .implied => impliedCycles m
  | .operand o => operandCycles m o
  | .target g => if m = .rrf then 8 else modifyCycles g
  | .bit _ g => modifyCycles g
  | .rel _ => if m = .bra then 4 else 2
  | .bitRel _ .acc _ => 4
  | .bitRel _ (.mem _) _ => 5
  | .ldm _ _ => 4
  | .jump _ => if m = .jsr then 6 else 3
  | .jumpInd _ => 5
  | .zpInd _ => if m = .jsr then 7 else 4
  | .special _ => 5

/-- What T = 1 adds (R364). -/
def tCycles : Mnemonic → Nat
  | .adc => 3
  | .sbc => 3
  | .and => 3
  | .ora => 3
  | .eor => 3
  | .lda => 2
  | .cmp => 1
  | _ => 0

/-- Whether a conditional branch is taken (R256 to R265). -/
def branchTaken (i : Instr) (s : State) : Bool :=
  match i with
  | .bcc _ => !s.flag .c
  | .bcs _ => s.flag .c
  | .beq _ => s.flag .z
  | .bne _ => !s.flag .z
  | .bmi _ => s.flag .n
  | .bpl _ => !s.flag .n
  | .bvc _ => !s.flag .v
  | .bvs _ => s.flag .v
  | .bbcAcc b _ => !s.a.getLsbD b
  | .bbsAcc b _ => s.a.getLsbD b
  | .bbcZp b zz _ => !(s.byteAt .data (zext16 zz)).getLsbD b
  | .bbsZp b zz _ => (s.byteAt .data (zext16 zz)).getLsbD b
  | _ => false

/-- The cycles of an instruction started in `s` (R363, R364); that of a hardware interrupt entry is not in the source
(R314). -/
def cycles (i : Instr) (s : State) : Nat :=
  baseCycles (mnemonic i) (shape i).2 + (if s.flag .t then tCycles (mnemonic i) else 0) +
    (if branchTaken i s then 2 else 0)

end Sys2Proof.Machine
end

