-- ==== Sys2Proof/Machine/Run.lean ====
section
/-! DEFINITION. A run from a launch to `END_PC` (R52, R53): its end at the first boundary that has it, and the ways it has no
final state, kept apart (stuck, a fault, a refusal, divergence). -/

namespace Sys2Proof.Machine

/-- The boundary at which the run to `endPc` has ended (R53): Running, PC there, nothing acceptable; the byte there is not
fetched. A source only R351 treats as requesting counts as acceptable (log 36). -/
def State.ended (s : State) (endPc : Addr) : Bool :=
  decide (s.runState = .running) && decide (s.pc = endPc) && s.acceptable.isNone

/-- In Wait or Stop with nothing acceptable: the CPU has no step at this boundary (R50, R326). -/
def State.asleep (s : State) : Bool := decide (s.runState ≠ .running) && s.acceptable.isNone

/-- The CPU is asleep now and at every boundary the turns to come bring, its own included (R326, U16). -/
def staysAsleep : List Turn → State → Bool
  | [], s => s.asleep
  | turn :: rest, s => s.asleep && staysAsleep rest (applyTurn turn (s.withEnv rest))

/-- Stuck (R53): left in Wait or Stop with no wake-up to come, neither an interrupt the CPU may accept nor a reset. -/
def State.stuck (s : State) : Bool := staysAsleep s.env s

/-- What a run to `END_PC` has come to after so many steps (R53). -/
inductive RunResult where
  /-- Ended: the final state, with the CPU state, the memory and the device state. -/
  | ended (final : State)
  /-- Stuck: asleep with no wake-up to come. -/
  | stuck (s : State)
  /-- A step faulted. -/
  | faulted (e : Fault)
  /-- A step was refused. -/
  | refused (e : Refusal)
  /-- None of these yet. -/
  | unfinished (s : State)
deriving DecidableEq, Repr

/-- The run from `s` to `endPc` for at most `fuel` steps: it stops at the first boundary that ends it or is stuck, and at a
step with no next state (R53, log 36). -/
def runTo (endPc : Addr) : Nat → State → RunResult
  | 0, s => if s.ended endPc then .ended s else if s.stuck then .stuck s else .unfinished s
  | fuel + 1, s =>
    if s.ended endPc then .ended s
    else if s.stuck then .stuck s
    else
      match step s with
      | .next t => runTo endPc fuel t
      | .fault e => .faulted e
      | .refused e => .refused e

/-- The run from `s` to `endPc` ends, with `final` its final state (R53). -/
def RunEnds (s : State) (endPc : Addr) (final : State) : Prop := ∃ n, runTo endPc n s = .ended final

/-- The run from `s` gets stuck before it ends (R53). -/
def RunStuck (s : State) (endPc : Addr) : Prop := ∃ n t, runTo endPc n s = .stuck t

/-- The run from `s` meets a step with no next state before it ends: a refusal, or the fault that stands for one
(R53, R302, log 6). -/
def RunRefused (s : State) (endPc : Addr) : Prop :=
  ∃ n, (∃ e, runTo endPc n s = .refused e) ∨ ∃ e, runTo endPc n s = .faulted e

/-- The run from `s` goes on for ever: it neither ends nor gets stuck nor is refused (R53). -/
def RunDiverges (s : State) (endPc : Addr) : Prop := ∀ n, ∃ t, runTo endPc n s = .unfinished t

end Sys2Proof.Machine
end

