-- ==== Sys2Proof/Safety.lean ====
section
/-! DEFINITION. The terms the statements are written in: whose turn it is, what the fetch permits, the invariant of the
machine, what a step leaves as it was, what a byte stored at an address leaves there, and the destination of a T-sensitive
instruction. -/

namespace Sys2Proof.Machine

/-! ### Turns and the fetch -/

/-- The CPU stands still: in Wait or Stop with nothing acceptable at this boundary (R326; log 15). -/
def State.standsStill (s : State) : Prop := s.runState ≠ .running ∧ s.acceptable = none

/-- The next turn is the CPU's (R50, log 12). -/
def State.cpuTurn (s : State) : Prop := s.env = [] ∨ ∃ rest, s.env = .cpu :: rest

/-- The state in which the CPU takes its turn: that turn no longer to come, the draw counter advanced (log 11, 12). -/
def State.turnTaken (s : State) : State := { s with env := s.env.tail, draws := s.draws + 1 }

/-- The bytes the fetch sees at PC, PC + 1 and PC + 2 (R65). -/
def State.codeBytes (s : State) : List Byte :=
  [s.byteAt .opcode s.pc, s.byteAt .operand1 (s.codeAddr 1), s.byteAt .operand2 (s.codeAddr 2)]

/-- No rule on successors forbids `i` here: nothing but NOP after PLP (R350); no SEC, CLC or CLD after decimal arithmetic
(R355); no BBC or BBS of a request bit just written (R352). -/
def State.permits (s : State) (i : Instr) : Prop :=
  (s.lastWasPlp = true → i = .nop) ∧
  (s.lastWasDecimal = true → i ≠ .sec ∧ i ≠ .clc ∧ i ≠ .cld) ∧
  ∀ a bits b zz rr, s.touched = some (a, bits) → (i = .bbcZp b zz rr ∨ i = .bbsZp b zz rr) → zext16 zz ≠ a ∨ b ∉ bits

/-! ### The invariant -/

/-- The four hazard shadows are clear (R46, R351, R354). -/
def State.shadowsClear (s : State) : Prop :=
  s.lastWasPlp = false ∧ s.lastWasDecimal = false ∧ s.touched = none ∧ s.stale = []

/-- The shadows name only request bits and sources the product has (R352, R351). -/
def State.shadowsNamed (s : State) : Prop :=
  (∀ a bits, s.touched = some (a, bits) → bits ≠ [] ∧ ∀ b ∈ bits, b ∈ requestBitsAt s.product a) ∧
  (∀ k ∈ s.stale, k ∈ s.product.irqSources ∧ k.reqAddr = k.enAddr)

/-- What every step keeps: both memories in their canonical form, the shadows clear in Wait and Stop and never both of a
PLP and of decimal arithmetic, and naming only what the product has. -/
def Inv (s : State) : Prop :=
  Memory.wf s.mem = true ∧ Memory.wf s.inputs = true ∧
  (s.runState ≠ .running → s.shadowsClear) ∧
  ¬(s.lastWasPlp = true ∧ s.lastWasDecimal = true) ∧
  s.shadowsNamed

/-! ### What is left as it was -/

/-- The four byte registers an instruction names (R20). -/
inductive Reg where
  | a
  | x
  | y
  | s
deriving DecidableEq, Repr

/-- A byte register. -/
def State.reg (s : State) : Reg → Byte
  | .a => s.a
  | .x => s.x
  | .y => s.y
  | .s => s.sp

/-- All eight flags. -/
def allFlags : List Flag := [.c, .z, .i, .d, .b, .t, .v, .n]

/-- Every byte held, and every byte the environment shows, is as it was but at the listed addresses. -/
def bytesKept (except : List Addr) (s t : State) : Prop :=
  ∀ a, a ∉ except → t.cell a = s.cell a ∧ t.input a = s.input a

/-- `t` is `s` but for the listed registers, flags and bytes, for PC and the shadows: the other registers and flags, every
other byte, the run state, the product, the turns to come and the draw counter are as they were. -/
def keeps (regs : List Reg) (flags : List Flag) (bytes : List Addr) (s t : State) : Prop :=
  (∀ r, r ∉ regs → t.reg r = s.reg r) ∧
  (∀ f, f ∉ flags → t.flag f = s.flag f) ∧
  bytesKept bytes s t ∧
  t.runState = s.runState ∧ t.product = s.product ∧ t.env = s.env ∧ t.draws = s.draws

/-! ### What is stored -/

/-- What one byte `v` stored at `a` leaves there, by the kind of the address (R75): RAM, a port latch and a direction
register hold `v`; ROM is as it was; a control register holds the bits of `v`, but a request bit written 1 while 0 may be
either (R307, log 22); another device register's device function is handed `v`, held as the last byte written, and what the
register then shows is free (log 24). -/
def holdsAt (s t : State) (a : Addr) (v : Byte) : Prop :=
  match s.kind a with
  | .ram => t.cell a = v ∧ t.input a = s.input a
  | .portLatch _ => t.cell a = v ∧ t.input a = s.input a
  | .portDirection => t.cell a = v ∧ t.input a = s.input a
  | .rom => t.cell a = s.cell a ∧ t.input a = s.input a
  | .unmapped => t.cell a = s.cell a ∧ t.input a = s.input a
  | .external => t.cell a = v
  | .control =>
    t.input a = s.input a ∧
    ∀ j, j < 8 → (j ∈ requestBitsAt s.product a → v.getLsbD j = true → (s.cell a).getLsbD j = true) →
      (t.cell a).getLsbD j = v.getLsbD j

/-- An instruction's one store of `v` at `a`: the byte, and the shadow of the request bits it concerns (R352). -/
def stored (s t : State) (a : Addr) (v : Byte) (bits : List Nat) : Prop :=
  holdsAt s t a v ∧ t.touched = if bits = [] then none else some (a, bits)

/-! ### The destination of the T-sensitive instructions (R185) -/

/-- The first operand: A, or the byte at M(X). -/
def dstByte (s : State) : Byte := if s.flag .t then s.byteAt .dst s.mx else s.a

/-- The destination can be accessed: A always, M(X) when something lies behind its address. -/
def dstReady (s : State) : Bool := !s.flag .t || s.mapped s.mx

/-- The registers the destination is among. -/
def dstRegs (s : State) : List Reg := if s.flag .t then [] else [.a]

/-- The bytes the destination is among. -/
def dstBytes (s : State) : List Addr := if s.flag .t then [s.mx] else []

/-- The destination took `v`. -/
def dstTook (s t : State) (v : Byte) : Prop :=
  if s.flag .t then stored s t s.mx v (requestBitsAt s.product s.mx) else t.a = v ∧ t.touched = none

/-! ### Shapes of instruction effects -/

/-- `i` completes with its result in the T-mode destination: `r` the byte, `flags` the flags it may write, and `post` what
it says of the state after. -/
def writesDst (i : Instr) (s : State) (r : Byte) (flags : List Flag) (post : State → Prop) : Prop :=
  ∃ t, exec i s = .next t ∧ dstTook s t r ∧ post t ∧ t.pc = s.nextPc (instrLength i) ∧
    keeps (dstRegs s) flags (dstBytes s) s t

/-- `i` completes writing only the listed registers and flags and PC, and stores nothing; no shadow is left. -/
def writesRegs (i : Instr) (s : State) (regs : List Reg) (flags : List Flag) (post : State → Prop) : Prop :=
  ∃ t, exec i s = .next t ∧ post t ∧ t.pc = s.nextPc (instrLength i) ∧ t.shadowsClear ∧ keeps regs flags [] s t

/-- `i` completes storing `v` at `a` and writing nothing else but PC. -/
def writesByte (i : Instr) (s : State) (a : Addr) (v : Byte) : Prop :=
  ∃ t, exec i s = .next t ∧ stored s t a v (requestBitsAt s.product a) ∧ t.pc = s.nextPc (instrLength i) ∧
    keeps [] [] [a] s t

/-- `i` completes as a read-modify-write of its target (R71, R210): the accumulator, or the byte at the effective address,
for every address the mode gives where something lies; `f` is the result, `post` what is said of the flags. -/
def modifies (i : Instr) (g : Target) (s : State) (f : Byte → Byte) (flags : List Flag) (post : Byte → State → Prop) :
    Prop :=
  match g with
  | .acc => writesRegs i s [.a] flags fun t => t.a = f s.a ∧ post s.a t
  | .mem m => ∀ ea, effAddr m s = .next ea → s.mapped ea = true →
      ∃ t, exec i s = .next t ∧ stored s t ea (f (s.byteAt .data ea)) (requestBitsAt s.product ea) ∧
        post (s.byteAt .data ea) t ∧ t.pc = s.nextPc (instrLength i) ∧ keeps [] flags [ea] s t

/-- The flags N and Z say of a byte what `setNZ` says (R14). -/
def nzOf (v : Byte) (t : State) : Prop := t.flag .n = v.getLsbD 7 ∧ t.flag .z = decide (v = 0)

/-- `i` completes as a branch (R254): to the signed displacement from the next instruction, modulo 65536, when `taken`, to
the next instruction otherwise; nothing else changes. -/
def branches (i : Instr) (s : State) (rr : Byte) (taken : Bool) : Prop :=
  ∃ t, exec i s = .next t ∧
    t.pc = BitVec.ofInt 16 ((s.pc.toNat : Int) + (instrLength i : Int) + (if taken then rr.toInt else 0)) ∧
    t.shadowsClear ∧ keeps [] [] [] s t

/-! ### The stack -/

/-- Stack slot `k` below the free one (R14, R24, R63). -/
def State.slot (s : State) (k : Nat) : Addr := s.stackAddr (s.sp - BitVec.ofNat 8 k)

/-- Stack byte `k` above the free slot, counted from 1 (R14). -/
def State.top (s : State) (k : Nat) : Addr := s.stackAddr (s.sp + BitVec.ofNat 8 k)

end Sys2Proof.Machine
end

