-- ==== Sys2Proof/WellFormed.lean ====
section
/-! DEFINITION. Well-formed instructions: what the assembler syntax asks of an operand beyond its width. A bit number
is 0 to 7 (R119, R120, R124); the operand of the special page JSR lies in 0xFF00 to 0xFFFF (R117). Every other operand
is a byte or a 16-bit address, of which every value can be written. -/

namespace Sys2Proof

/-- The checks on the operands of an instruction (R117, R119, R120, R124). -/
def Instr.wf : Instr → Bool
  | .ldaIndX _ => true
  | .ldaZp _ => true
  | .ldaImm _ => true
  | .ldaAbs _ => true
  | .ldaIndY _ => true
  | .ldaZpX _ => true
  | .ldaAbsY _ => true
  | .ldaAbsX _ => true
  | .ldmZp _ _ => true
  | .ldxImm _ => true
  | .ldxZp _ => true
  | .ldxAbs _ => true
  | .ldxZpY _ => true
  | .ldxAbsY _ => true
  | .ldyImm _ => true
  | .ldyZp _ => true
  | .ldyAbs _ => true
  | .ldyZpX _ => true
  | .ldyAbsX _ => true
  | .staIndX _ => true
  | .staZp _ => true
  | .staAbs _ => true
  | .staIndY _ => true
  | .staZpX _ => true
  | .staAbsY _ => true
  | .staAbsX _ => true
  | .stxZp _ => true
  | .stxAbs _ => true
  | .stxZpY _ => true
  | .styZp _ => true
  | .styAbs _ => true
  | .styZpX _ => true
  | .tax => true
  | .txa => true
  | .tay => true
  | .tya => true
  | .tsx => true
  | .txs => true
  | .pha => true
  | .php => true
  | .pla => true
  | .plp => true
  | .adcIndX _ => true
  | .adcZp _ => true
  | .adcImm _ => true
  | .adcAbs _ => true
  | .adcIndY _ => true
  | .adcZpX _ => true
  | .adcAbsY _ => true
  | .adcAbsX _ => true
  | .sbcIndX _ => true
  | .sbcZp _ => true
  | .sbcImm _ => true
  | .sbcAbs _ => true
  | .sbcIndY _ => true
  | .sbcZpX _ => true
  | .sbcAbsY _ => true
  | .sbcAbsX _ => true
  | .incAcc => true
  | .incZp _ => true
  | .incAbs _ => true
  | .incZpX _ => true
  | .incAbsX _ => true
  | .decAcc => true
  | .decZp _ => true
  | .decAbs _ => true
  | .decZpX _ => true
  | .decAbsX _ => true
  | .inx => true
  | .iny => true
  | .dex => true
  | .dey => true
  | .mulZpX _ => true
  | .divZpX _ => true
  | .andIndX _ => true
  | .andZp _ => true
  | .andImm _ => true
  | .andAbs _ => true
  | .andIndY _ => true
  | .andZpX _ => true
  | .andAbsY _ => true
  | .andAbsX _ => true
  | .oraIndX _ => true
  | .oraZp _ => true
  | .oraImm _ => true
  | .oraAbs _ => true
  | .oraIndY _ => true
  | .oraZpX _ => true
  | .oraAbsY _ => true
  | .oraAbsX _ => true
  | .eorIndX _ => true
  | .eorZp _ => true
  | .eorImm _ => true
  | .eorAbs _ => true
  | .eorIndY _ => true
  | .eorZpX _ => true
  | .eorAbsY _ => true
  | .eorAbsX _ => true
  | .comZp _ => true
  | .bitZp _ => true
  | .bitAbs _ => true
  | .tstZp _ => true
  | .cmpIndX _ => true
  | .cmpZp _ => true
  | .cmpImm _ => true
  | .cmpAbs _ => true
  | .cmpIndY _ => true
  | .cmpZpX _ => true
  | .cmpAbsY _ => true
  | .cmpAbsX _ => true
  | .cpxImm _ => true
  | .cpxZp _ => true
  | .cpxAbs _ => true
  | .cpyImm _ => true
  | .cpyZp _ => true
  | .cpyAbs _ => true
  | .aslZp _ => true
  | .aslAcc => true
  | .aslAbs _ => true
  | .aslZpX _ => true
  | .aslAbsX _ => true
  | .lsrZp _ => true
  | .lsrAcc => true
  | .lsrAbs _ => true
  | .lsrZpX _ => true
  | .lsrAbsX _ => true
  | .rolZp _ => true
  | .rolAcc => true
  | .rolAbs _ => true
  | .rolZpX _ => true
  | .rolAbsX _ => true
  | .rorZp _ => true
  | .rorAcc => true
  | .rorAbs _ => true
  | .rorZpX _ => true
  | .rorAbsX _ => true
  | .rrfZp _ => true
  | .clbAcc i => i < 8
  | .clbZp i _ => i < 8
  | .sebAcc i => i < 8
  | .sebZp i _ => i < 8
  | .clc => true
  | .sec => true
  | .cld => true
  | .sed => true
  | .cli => true
  | .sei => true
  | .clt => true
  | .set => true
  | .clv => true
  | .jmpAbs _ => true
  | .jmpInd _ => true
  | .jmpZpInd _ => true
  | .bra _ => true
  | .bcc _ => true
  | .bcs _ => true
  | .beq _ => true
  | .bne _ => true
  | .bmi _ => true
  | .bpl _ => true
  | .bvc _ => true
  | .bvs _ => true
  | .bbcAcc i _ => i < 8
  | .bbcZp i _ _ => i < 8
  | .bbsAcc i _ => i < 8
  | .bbsZp i _ _ => i < 8
  | .jsrZpInd _ => true
  | .jsrAbs _ => true
  | .jsrSp hhll => hiByte hhll = 0xFF
  | .rts => true
  | .rti => true
  | .brk => true
  | .stp => true
  | .wit => true
  | .nop => true

end Sys2Proof
end

