-- ==== Sys2Proof/Certificates/Slice0/Obligations.lean ====
section
/-! DEFINITION. The statements about the model, each a proposition; the rule of spec/ a statement follows stands in its
docstring. `shape i = (.lda, .operand o)` reads "i is LDA with operand o", whatever its addressing mode. -/

open Sys2Proof Sys2Proof.Machine

/-! ### Encoding and decoding -/

/-- Decoding the bytes of a well-formed instruction gives it back, whatever follows them (R100, R101, R124). -/
def Obligations.DecodeEncode : Prop :=
  ∀ (i : Instr) (rest : List Byte), i.wf = true → decode (encode i ++ rest) = .ok i

/-- Whatever decodes is a well-formed instruction whose bytes are exactly those at the head (R100, R101, R141). -/
def Obligations.DecodeReadsEveryByte : Prop :=
  ∀ (bytes : List Byte) (i : Instr), decode bytes = .ok i →
    i.wf = true ∧ bytes = encode i ++ bytes.drop (instrLength i) ∧ (encode i).length = instrLength i

/-- The undefined opcodes are the 25 of R140, and no other. -/
def Obligations.UndefinedOpcodes : Prop :=
  ∀ op : Byte, decodeOp op = none ↔
    op ∈ ([0x04, 0x0C, 0x14, 0x1C, 0x34, 0x52, 0x54, 0x5A, 0x5C, 0x72, 0x74, 0x7A, 0x7C, 0x89, 0x92, 0x9C, 0x9E, 0xD2,
      0xD4, 0xDA, 0xDC, 0xF2, 0xF4, 0xFA, 0xFC] : List Byte)

/-- The example words of the addressing-mode rules decode to what the rules say (R105 to R120), and so do three words of the
opcode map, of LDM, BRK and CLC (R101, R104, R107): one or more of each family. -/
def Obligations.ManualWordsDecode : Prop :=
  decode [0x69, 0xA5] = .ok (.adcImm 0xA5) ∧ decode [0x2A] = .ok .rolAcc ∧ decode [0x65, 0x40] = .ok (.adcZp 0x40) ∧
  decode [0x75, 0x5E] = .ok (.adcZpX 0x5E) ∧ decode [0x7D, 0x12, 0xAD] = .ok (.adcAbsX 0xAD12) ∧
  decode [0x61, 0x1E] = .ok (.adcIndX 0x1E) ∧
  decode [0xB6, 0x62] = .ok (.ldxZpY 0x62) ∧ decode [0x6D, 0x12, 0xAD] = .ok (.adcAbs 0xAD12) ∧
  decode [0x79, 0x12, 0xAD] = .ok (.adcAbsY 0xAD12) ∧ decode [0x71, 0x1E] = .ok (.adcIndY 0x1E) ∧
  decode [0x6C, 0x00, 0x14] = .ok (.jmpInd 0x1400) ∧ decode [0xB2, 0x45] = .ok (.jmpZpInd 0x45) ∧
  decode [0x22, 0xC0] = .ok (.jsrSp 0xFFC0) ∧ decode [0x90, 0xF2] = .ok (.bcc 0xF2) ∧
  decode [0xBF, 0x44] = .ok (.clbZp 5 0x44) ∧ decode [0xBB] = .ok (.clbAcc 5) ∧
  decode [0xB3, 0xF2] = .ok (.bbcAcc 5 0xF2) ∧ decode [0xB7, 0x04, 0xF1] = .ok (.bbcZp 5 0x04 0xF1) ∧
  decode [0x3C, 0x5A, 0x10] = .ok (.ldmZp 0x5A 0x10) ∧ decode [0x00] = .ok .brk ∧ decode [0x18] = .ok .clc

/-! ### The step -/

/-- On the CPU's turn, Running, nothing acceptable and no successor forbidden, the step runs the instruction that the bytes at
PC decode to, MUL and DIV with HAS_MULDIV, on the state in which the turn is taken (R16). -/
def Obligations.StepRunsDecoded : Prop :=
  ∀ (s : State) (i : Instr), s.cpuTurn → s.runState = .running → s.acceptable = none →
    decode s.turnTaken.codeBytes = .ok i → (∀ k, k < instrLength i → s.mapped (s.codeAddr k) = true) →
    (mnemonic i = .mul ∨ mnemonic i = .div → s.product.hasMulDiv = true) → s.permits i → step s = exec i s.turnTaken

/-- The fetch of an undefined opcode stops with its name, after PLP as a forbidden successor instead; those of MUL and DIV
are undefined without HAS_MULDIV, whatever follows them (R140, R142). An unmapped opcode or operand address faults: that, and
that it does so as a fault, is the model's choice, and so is the name given after PLP (R75 and U11 leave it open; log 6 and
log 37). -/
def Obligations.FetchStops : Prop :=
  ∀ s : State, s.cpuTurn → s.runState = .running → s.acceptable = none →
    (s.mapped s.pc = false → step s = .fault (.unmappedAccess s.pc)) ∧
    (s.mapped s.pc = true → s.lastWasPlp = true → decodeOp (s.turnTaken.byteAt .opcode s.pc) = none →
      step s = .refused .plpSuccessor) ∧
    (s.mapped s.pc = true → s.lastWasPlp = false →
      (decodeOp (s.turnTaken.byteAt .opcode s.pc) = none ∨ s.product.hasMulDiv = false ∧
        (s.turnTaken.byteAt .opcode s.pc = 0x62 ∨ s.turnTaken.byteAt .opcode s.pc = 0xE2)) →
      step s = .refused (.undefinedOpcode (s.turnTaken.byteAt .opcode s.pc) s.pc)) ∧
    (∀ i k, decode s.turnTaken.codeBytes = .ok i → s.lastWasPlp = false →
      (mnemonic i = .mul ∨ mnemonic i = .div → s.product.hasMulDiv = true) → 0 < k → k < instrLength i →
      (∀ j, j < k → s.mapped (s.codeAddr j) = true) → s.mapped (s.codeAddr k) = false →
      step s = .fault (.unmappedAccess (s.codeAddr k)))

/-- The sequences the manual forbids stop the step, each by name, and no other instruction is held back: after PLP every
opcode but NOP's, defined or not, whatever its operands (R350); after decimal arithmetic those of SEC, CLC and CLD (R355); BBC
and BBS of a request bit just written (R352). That PLP's name comes first is the model's choice (log 37). -/
def Obligations.HazardRefusals : Prop :=
  ∀ s : State, s.cpuTurn → s.runState = .running → s.acceptable = none → s.mapped s.pc = true →
    let op := s.turnTaken.byteAt .opcode s.pc
    (s.lastWasPlp = true → op ≠ 0xEA → step s = .refused .plpSuccessor) ∧
    (s.lastWasPlp = false → s.lastWasDecimal = true → (op = 0x38 ∨ op = 0x18 ∨ op = 0xD8) →
      step s = .refused .decimalSuccessor) ∧
    ∀ i, decode s.turnTaken.codeBytes = .ok i → (∀ k, k < instrLength i → s.mapped (s.codeAddr k) = true) →
      (∀ a bits b zz rr, s.lastWasPlp = false → s.touched = some (a, bits) → zext16 zz = a → b ∈ bits →
        (i = .bbcZp b zz rr ∨ i = .bbsZp b zz rr) → step s = .refused .requestBitSuccessor) ∧
      (s.permits i → (mnemonic i = .mul ∨ mnemonic i = .div → s.product.hasMulDiv = true) → step s = exec i s.turnTaken)

/-- An acceptable source is entered instead of an instruction, in every run state; in Wait or Stop with none the CPU stands
still (R16, R310, R325, R326). The second clause is the model's choice (log 15). -/
def Obligations.StepInterrupts : Prop :=
  ∀ s : State, s.cpuTurn →
    (∀ k, s.acceptable = some k → step s = interruptEntry k s.turnTaken) ∧
    (s.standsStill → step s = .next { s with env := s.env.tail })

/-- The environment's turns (R50): a request bit set and nothing else; the byte one device address returns and nothing else
(the pins of a port, another device's byte, a control register but for its request and enable bits); reset. The first two
moves write no register of the CPU, and the second neither RAM nor ROM; the first sets the bit in the byte held at the
source's address whatever the kind of that address, which outside RAM and control registers is the model's choice (log 35). So
is that a direction register's reading does not follow the environment, its reading being free (log 12, log 23). -/
def Obligations.EnvironmentTurns : Prop :=
  ∀ (s : State) (rest : List Turn),
    (∀ n k, s.env = .setRequest n :: rest → s.product.irqSources[n]? = some k →
      ∃ t, step s = .next t ∧ (∀ a, a ≠ k.reqAddr → t.cell a = s.cell a) ∧
        (∀ j, j < 8 → (t.cell k.reqAddr).getLsbD j = (decide (j = k.reqBit.val) || (s.cell k.reqAddr).getLsbD j)) ∧
        t = { s with env := rest, mem := t.mem }) ∧
    (∀ a v, s.env = .deviceInput a v :: rest → ∃ t, step s = .next t ∧ bytesKept [a] s t ∧
        ((∃ dir, s.kind a = .portLatch dir) ∨ s.kind a = .external → t.input a = v ∧ t.cell a = s.cell a) ∧
        (s.kind a = .control → t.input a = s.input a ∧ ∀ j, j < 8 → (t.cell a).getLsbD j =
          if j ∈ requestBitsAt s.product a ∨ j ∈ enableBitsAt s.product a then (s.cell a).getLsbD j else v.getLsbD j) ∧
        (s.kind a = .ram ∨ s.kind a = .rom ∨ s.kind a = .portDirection ∨ s.kind a = .unmapped →
          t.cell a = s.cell a ∧ t.input a = s.input a) ∧
        t = { s with env := rest, mem := t.mem, inputs := t.inputs }) ∧
    (s.env = .reset :: rest → step s = .next (hardwareReset { s with env := rest }))

/-! ### Addresses and accesses -/

/-- The effective address of the modes without a pointer (R107 to R112, R122). -/
def Obligations.DirectAddresses : Prop :=
  ∀ (s : State) (zz : Byte) (hhll : Addr),
    effAddr (.zp zz) s = .next (BitVec.ofNat 16 zz.toNat) ∧
    effAddr (.zpX zz) s = .next (BitVec.ofNat 16 ((zz.toNat + s.x.toNat) % 256)) ∧
    effAddr (.zpY zz) s = .next (BitVec.ofNat 16 ((zz.toNat + s.y.toNat) % 256)) ∧
    effAddr (.abs hhll) s = .next hhll ∧
    effAddr (.absX hhll) s = .next (BitVec.ofNat 16 ((hhll.toNat + s.x.toNat) % 65536)) ∧
    effAddr (.absY hhll) s = .next (BitVec.ofNat 16 ((hhll.toNat + s.y.toNat) % 65536))

/-- Where the second byte of a zero-page word lies (R121): the next zero-page address; at 0xFF by ZP_PTR_WRAP. Under the
model's own fourth setting it is one of the two places (log 5). -/
def Obligations.SecondPointerByte : Prop :=
  ∀ (s : State) (p : Byte),
    (p ≠ 0xFF → zpNext p s = .next (BitVec.ofNat 16 (p.toNat + 1))) ∧
    (p = 0xFF → s.product.zpPtrWrap = .wrap → zpNext p s = .next 0x0000) ∧
    (p = 0xFF → s.product.zpPtrWrap = .carry → zpNext p s = .next 0x0100) ∧
    (p = 0xFF → s.product.zpPtrWrap = .refuse → zpNext p s = .refused .zpPointerAtFF) ∧
    (p = 0xFF → s.product.zpPtrWrap = .unstated → zpNext p s = .next 0x0000 ∨ zpNext p s = .next 0x0100)

/-- Indirect X and indirect Y (R113, R114, R121): the pointer's low byte at the zero-page address, its high byte at the
next one, the index before or after; a word the product refuses stops both modes. The model's choices: an unmapped pointer byte
faults, the low one first (R75 and U11 leave it open; log 6, log 30), and a refused word stops with its own name also where
nothing lies behind 0x00FF (log 41). -/
def Obligations.IndirectAddresses : Prop :=
  ∀ (s : State) (zz : Byte),
    (∀ hi, zpNext (zz + s.x) s = .next hi → s.mapped (zext16 (zz + s.x)) = true → s.mapped hi = true →
      effAddr (.indX zz) s = .next (BitVec.ofNat 16
        (256 * (s.byteAt .pointerHi hi).toNat + (s.byteAt .pointerLo (zext16 (zz + s.x))).toNat))) ∧
    (∀ hi, zpNext zz s = .next hi → s.mapped (zext16 zz) = true → s.mapped hi = true →
      effAddr (.indY zz) s = .next (BitVec.ofNat 16
        (256 * (s.byteAt .pointerHi hi).toNat + (s.byteAt .pointerLo (zext16 zz)).toNat + s.y.toNat))) ∧
    (s.product.zpPtrWrap = .refuse → zz + s.x = 0xFF → effAddr (.indX zz) s = .refused .zpPointerAtFF) ∧
    (s.product.zpPtrWrap = .refuse → zz = 0xFF → effAddr (.indY zz) s = .refused .zpPointerAtFF) ∧
    (∀ hi, zpNext (zz + s.x) s = .next hi →
      (s.mapped (zext16 (zz + s.x)) = false → effAddr (.indX zz) s = .fault (.unmappedAccess (zext16 (zz + s.x)))) ∧
      (s.mapped (zext16 (zz + s.x)) = true → s.mapped hi = false →
        effAddr (.indX zz) s = .fault (.unmappedAccess hi))) ∧
    (∀ hi, zpNext zz s = .next hi →
      (s.mapped (zext16 zz) = false → effAddr (.indY zz) s = .fault (.unmappedAccess (zext16 zz))) ∧
      (s.mapped (zext16 zz) = true → s.mapped hi = false → effAddr (.indY zz) s = .fault (.unmappedAccess hi)))

/-- What a read gives by the kind of the address (R72, R75): the byte held; on a port latch bit by bit the latch where the
direction register makes the bit an output and the pin where it makes it an input; the environment's byte of any other
device. That an unmapped address faults is the model's choice (R75 and U11 leave it open; log 6); which value of a direction
bit is an output is the model's parameter (log 21). -/
def Obligations.ReadByKind : Prop :=
  ∀ (s : State) (k : Access) (a : Addr),
    (s.kind a = .ram ∨ s.kind a = .rom ∨ s.kind a = .control → readByte k a s = .next (s.cell a)) ∧
    (∀ dir, s.kind a = .portLatch dir → ∃ v, readByte k a s = .next v ∧
      ∀ j, j < 8 → v.getLsbD j =
        if (s.cell dir).getLsbD j = s.product.outputIsOne then (s.cell a).getLsbD j else (s.input a).getLsbD j) ∧
    (s.kind a = .portDirection → ∃ v, readByte k a s = .next v) ∧
    (s.kind a = .external → readByte k a s = .next (s.input a)) ∧
    (s.kind a = .unmapped → readByte k a s = .fault (.unmappedAccess a))

/-- The operand byte (R103, R105): the immediate byte, or the byte read at the effective address. That an unmapped address
faults is the model's choice (R75 and U11 leave it open; log 6). -/
def Obligations.OperandByte : Prop :=
  ∀ (s : State),
    (∀ nn, operandByte (.imm nn) s = .next nn) ∧
    (∀ m ea, effAddr m s = .next ea → s.mapped ea = true → operandByte (.mem m) s = .next (s.byteAt .data ea)) ∧
    (∀ m ea, effAddr m s = .next ea → s.mapped ea = false →
      operandByte (.mem m) s = .fault (.unmappedAccess ea))

/-- What a write does (R75): the byte by the kind of the address, every other byte as it was, nothing but memory and the
shadows of request bits changed. The model's choices: an unmapped address faults (R75 and U11 leave it open; log 6), a request
bit of a control register written 1 while 0 is free (log 22), and so is what another device register then shows (log 24). -/
def Obligations.WriteByKind : Prop :=
  ∀ (s : State) (scope : WriteScope) (a : Addr) (v : Byte),
    (s.mapped a = true → ∃ t, writeByte scope a v s = .next t ∧ holdsAt s t a v ∧ bytesKept [a] s t ∧
      t = { s with mem := t.mem, inputs := t.inputs, touched := t.touched, stale := t.stale }) ∧
    (s.mapped a = false → writeByte scope a v s = .fault (.unmappedAccess a))

/-! ### Data transfer -/

/-- LDA: A, or M(X) when T is 1, takes the operand; N and Z of it; nothing else (R151, R152). -/
def Obligations.LdaTakesOperand : Prop :=
  ∀ (i : Instr) (o : Operand) (s : State) (m : Byte), shape i = (.lda, .operand o) → operandByte o s = .next m →
    dstReady s = true → writesDst i s m [.n, .z] (nzOf m)

/-- LDX and LDY: the register takes the operand whatever T is; N and Z of it; nothing else (R154, R155). -/
def Obligations.LdxLdyTakeOperand : Prop :=
  ∀ (i : Instr) (o : Operand) (s : State) (m : Byte), operandByte o s = .next m →
    (shape i = (.ldx, .operand o) → writesRegs i s [.x] [.n, .z] fun t => t.x = m ∧ nzOf m t) ∧
    (shape i = (.ldy, .operand o) → writesRegs i s [.y] [.n, .z] fun t => t.y = m ∧ nzOf m t)

/-- STA, STX, STY and LDM: the register or the immediate byte is stored at the effective address, nothing else (R153,
R156, R157, R158). -/
def Obligations.StoresStore : Prop :=
  ∀ (i : Instr) (s : State),
    (∀ m ea, effAddr m s = .next ea → s.mapped ea = true →
      (shape i = (.sta, .operand (.mem m)) → writesByte i s ea s.a) ∧
      (shape i = (.stx, .operand (.mem m)) → writesByte i s ea s.x) ∧
      (shape i = (.sty, .operand (.mem m)) → writesByte i s ea s.y)) ∧
    (∀ nn zz, shape i = (.ldm, .ldm nn zz) → s.mapped (zext16 zz) = true → writesByte i s (zext16 zz) nn)

/-- TAX, TXA, TAY, TYA and TSX: encoding, cycles, the move, N and Z of the byte moved; TXS: the move and no flag (R159 to
R163, R164). -/
def Obligations.Transfers : Prop :=
  ∀ s : State,
    (encode .tax = [0xAA] ∧ cycles .tax s = 2 ∧ writesRegs .tax s [.x] [.n, .z] fun t => t.x = s.a ∧ nzOf s.a t) ∧
    (encode .txa = [0x8A] ∧ cycles .txa s = 2 ∧ writesRegs .txa s [.a] [.n, .z] fun t => t.a = s.x ∧ nzOf s.x t) ∧
    (encode .tay = [0xA8] ∧ cycles .tay s = 2 ∧ writesRegs .tay s [.y] [.n, .z] fun t => t.y = s.a ∧ nzOf s.a t) ∧
    (encode .tya = [0x98] ∧ cycles .tya s = 2 ∧ writesRegs .tya s [.a] [.n, .z] fun t => t.a = s.y ∧ nzOf s.y t) ∧
    (encode .tsx = [0xBA] ∧ cycles .tsx s = 2 ∧ writesRegs .tsx s [.x] [.n, .z] fun t => t.x = s.sp ∧ nzOf s.sp t) ∧
    (encode .txs = [0x9A] ∧ cycles .txs s = 2 ∧ writesRegs .txs s [.s] [] fun t => t.sp = s.x)

/-- PHA and PHP: A, or the live PS with all eight bits, is stored in the free slot, S goes down by one modulo 256, nothing
else (R165, R166). That a push into a request byte leaves the shadow of R352 is the model's reading of its general sentence
and of R46 (c), its list naming no push (log 20). -/
def Obligations.PushesPush : Prop :=
  ∀ s : State, s.mapped (s.slot 0) = true →
    (∃ t, exec .pha s = .next t ∧ stored s t (s.slot 0) s.a (requestBitsAt s.product (s.slot 0)) ∧
      t.sp = s.sp - 1 ∧ t.pc = s.nextPc 1 ∧ keeps [.s] [] [s.slot 0] s t) ∧
    (∃ t, exec .php s = .next t ∧ stored s t (s.slot 0) s.ps (requestBitsAt s.product (s.slot 0)) ∧
      t.sp = s.sp - 1 ∧ t.pc = s.nextPc 1 ∧ keeps [.s] [] [s.slot 0] s t)

/-- PLA: A takes the byte above the free slot, N and Z of it; PLP: PS takes all eight bits of it, and `lastWasPLP` is set;
S goes up by one; nothing else (R167, R168). -/
def Obligations.PullsPull : Prop :=
  ∀ s : State, s.mapped (s.top 1) = true →
    (writesRegs .pla s [.a, .s] [.n, .z] fun t =>
      t.a = s.byteAt .pull1 (s.top 1) ∧ t.sp = s.sp + 1 ∧ nzOf (s.byteAt .pull1 (s.top 1)) t) ∧
    (∃ t, exec .plp s = .next t ∧ t.ps = s.byteAt .pull1 (s.top 1) ∧ t.sp = s.sp + 1 ∧ t.pc = s.nextPc 1 ∧
      t.lastWasPlp = true ∧ t.lastWasDecimal = false ∧ t.touched = none ∧ t.stale = [] ∧
      keeps [.s] allFlags [] s t)

/-! ### Arithmetic -/

/-- ADC with D = 0 (R181): the sum of the destination, the operand and C modulo 256; C its carry, V the signed overflow of
the whole sum, N and Z of the result; into A, or into M(X) when T is 1 (R185). -/
def Obligations.AdcBinary : Prop :=
  ∀ (i : Instr) (o : Operand) (s : State) (m : Byte), shape i = (.adc, .operand o) → operandByte o s = .next m →
    dstReady s = true → s.flag .d = false →
    writesDst i s (BitVec.ofNat 8 ((dstByte s).toNat + m.toNat + (s.flag .c).toNat)) [.n, .v, .z, .c] fun t =>
      nzOf (BitVec.ofNat 8 ((dstByte s).toNat + m.toNat + (s.flag .c).toNat)) t ∧
      (t.flag .c = true ↔ (dstByte s).toNat + m.toNat + (s.flag .c).toNat > 255) ∧
      (t.flag .v = true ↔ (dstByte s).toInt + m.toInt + (s.flag .c).toNat > 127 ∨
        (dstByte s).toInt + m.toInt + (s.flag .c).toNat < -128)

/-- SBC with D = 0 (R183): the destination less the operand less the complement of C; C says no borrow, V signed overflow,
N and Z of the result; into A, or into M(X) when T is 1. -/
def Obligations.SbcBinary : Prop :=
  ∀ (i : Instr) (o : Operand) (s : State) (m : Byte), shape i = (.sbc, .operand o) → operandByte o s = .next m →
    dstReady s = true → s.flag .d = false →
    let b : Int := if s.flag .c then 0 else 1
    let d : Int := ((dstByte s).toNat : Int) - m.toNat - b
    let signed : Int := (dstByte s).toInt - m.toInt - b
    writesDst i s (BitVec.ofInt 8 d) [.n, .v, .z, .c] fun t =>
      nzOf (BitVec.ofInt 8 d) t ∧ (t.flag .c = true ↔ d ≥ 0) ∧ (t.flag .v = true ↔ signed > 127 ∨ signed < -128)

/-- ADC and SBC with D = 1 on two-digit decimal operands (R182, R184): the decimal sum or difference modulo 100 and its
carry or no-borrow; N, V and Z may be anything; `lastWasDecimalArith` is set. -/
def Obligations.ArithDecimal : Prop :=
  ∀ (i : Instr) (o : Operand) (s : State) (m : Byte) (h1 l1 h2 l2 : Nat), operandByte o s = .next m →
    dstReady s = true → s.flag .d = true → h1 < 10 → l1 < 10 → h2 < 10 → l2 < 10 →
    dstByte s = BitVec.ofNat 8 (16 * h1 + l1) → m = BitVec.ofNat 8 (16 * h2 + l2) →
    (shape i = (.adc, .operand o) →
      ∃ k, k < 100 ∧ writesDst i s (BitVec.ofNat 8 (16 * (k / 10) + k % 10)) [.n, .v, .z, .c] fun t =>
        (10 * h1 + l1) + (10 * h2 + l2) + (s.flag .c).toNat = k + (if t.flag .c then 100 else 0) ∧
        t.lastWasDecimal = true) ∧
    (shape i = (.sbc, .operand o) →
      ∃ k, k < 100 ∧ writesDst i s (BitVec.ofNat 8 (16 * (k / 10) + k % 10)) [.n, .v, .z, .c] fun t =>
        (10 * h1 + l1) + (if t.flag .c then 0 else 100) =
          k + (10 * h2 + l2) + (if s.flag .c then 0 else 1) ∧ t.lastWasDecimal = true)

/-- ADC and SBC with D = 1 on any bytes run on, whatever the result and the four flags are (R182, R184, U3; log 9). -/
def Obligations.ArithDecimalRuns : Prop :=
  ∀ (i : Instr) (o : Operand) (s : State) (m : Byte), operandByte o s = .next m → dstReady s = true →
    s.flag .d = true → (shape i = (.adc, .operand o) ∨ shape i = (.sbc, .operand o)) →
    ∃ r, writesDst i s r [.n, .v, .z, .c] fun t => t.lastWasDecimal = true ∧ t.lastWasPlp = false

/-- INC and DEC on A or a byte of memory: plus or minus one modulo 256, N and Z of the result, C and V as they were (R186,
R187). -/
def Obligations.IncDec : Prop :=
  ∀ (i : Instr) (g : Target) (s : State),
    (shape i = (.inc, .target g) → modifies i g s (fun v => BitVec.ofNat 8 (v.toNat + 1)) [.n, .z]
      fun v => nzOf (BitVec.ofNat 8 (v.toNat + 1))) ∧
    (shape i = (.dec, .target g) → modifies i g s (fun v => BitVec.ofNat 8 (v.toNat + 255)) [.n, .z]
      fun v => nzOf (BitVec.ofNat 8 (v.toNat + 255)))

/-- INX, INY, DEX, DEY: encoding, cycles, one more or less modulo 256, N and Z of the result (R188 to R191). -/
def Obligations.IndexSteps : Prop :=
  ∀ s : State,
    (encode .inx = [0xE8] ∧ cycles .inx s = 2 ∧ writesRegs .inx s [.x] [.n, .z] fun t =>
      t.x.toNat = (s.x.toNat + 1) % 256 ∧ nzOf t.x t) ∧
    (encode .iny = [0xC8] ∧ cycles .iny s = 2 ∧ writesRegs .iny s [.y] [.n, .z] fun t =>
      t.y.toNat = (s.y.toNat + 1) % 256 ∧ nzOf t.y t) ∧
    (encode .dex = [0xCA] ∧ cycles .dex s = 2 ∧ writesRegs .dex s [.x] [.n, .z] fun t =>
      t.x.toNat = (s.x.toNat + 255) % 256 ∧ nzOf t.x t) ∧
    (encode .dey = [0x88] ∧ cycles .dey s = 2 ∧ writesRegs .dey s [.y] [.n, .z] fun t =>
      t.y.toNat = (s.y.toNat + 255) % 256 ∧ nzOf t.y t)

/-- MUL with HAS_MULDIV (R193): the high byte of the unsigned product in the free slot, S down by one, the low byte in A;
no flag. That the operands are unsigned is decision D20 (log 28); that the push into a request byte leaves the shadow of R352
is the model's reading of its general sentence and of R46 (c) (log 20). -/
def Obligations.MulMultiplies : Prop :=
  ∀ (s : State) (zz : Byte), s.product.hasMulDiv = true → s.mapped (zext16 (zz + s.x)) = true →
    s.mapped (s.slot 0) = true →
    let p := s.a.toNat * (s.byteAt .data (zext16 (zz + s.x))).toNat
    ∃ t, exec (.mulZpX zz) s = .next t ∧ t.a = BitVec.ofNat 8 (p % 256) ∧
      stored s t (s.slot 0) (BitVec.ofNat 8 (p / 256)) (requestBitsAt s.product (s.slot 0)) ∧ t.sp = s.sp - 1 ∧
      t.pc = s.nextPc 2 ∧ keeps [.a, .s] [] [s.slot 0] s t

/-- DIV with HAS_MULDIV (R194, R195): the unsigned quotient in A and the complement of the remainder in the free slot when A
is not 0 and the quotient fits a byte; S down by one and no flag in every case, whatever A and the byte then are (log 10). That
quotient and remainder are unsigned is decision D20, the model's choice (log 28); that the push into a request byte leaves the
shadow of R352 is the model's reading of its general sentence and of R46 (c) (log 20). -/
def Obligations.DivDivides : Prop :=
  ∀ (s : State) (zz : Byte) (hi : Addr), s.product.hasMulDiv = true → zpNext (zz + s.x) s = .next hi →
    s.mapped (zext16 (zz + s.x)) = true → s.mapped hi = true → s.mapped (s.slot 0) = true →
    let w := 256 * (s.byteAt .pointerHi hi).toNat + (s.byteAt .pointerLo (zext16 (zz + s.x))).toNat
    ∃ t v, exec (.divZpX zz) s = .next t ∧ stored s t (s.slot 0) v (requestBitsAt s.product (s.slot 0)) ∧
      (s.a ≠ 0 → w / s.a.toNat ≤ 255 →
        t.a.toNat = w / s.a.toNat ∧ v.toNat = 255 - w % s.a.toNat) ∧
      t.sp = s.sp - 1 ∧ t.pc = s.nextPc 2 ∧ keeps [.a, .s] [] [s.slot 0] s t

/-- Without HAS_MULDIV the opcodes 62 and E2 are undefined opcodes (R142, R193, R194). -/
def Obligations.MulDivAbsent : Prop :=
  ∀ (s : State) (zz : Byte), s.product.hasMulDiv = false →
    exec (.mulZpX zz) s = .refused (.undefinedOpcode 0x62 s.pc) ∧
    exec (.divZpX zz) s = .refused (.undefinedOpcode 0xE2 s.pc)

/-! ### Logic, compare, shift -/

/-- AND, ORA and EOR: bit by bit of the destination and the operand, into A or M(X) by T; N and Z of the result (R201, R202,
R203). -/
def Obligations.LogicOps : Prop :=
  ∀ (i : Instr) (o : Operand) (s : State) (m : Byte), operandByte o s = .next m → dstReady s = true →
    (shape i = (.and, .operand o) → ∃ r : Byte,
      (∀ j, j < 8 → r.getLsbD j = ((dstByte s).getLsbD j && m.getLsbD j)) ∧ writesDst i s r [.n, .z] (nzOf r)) ∧
    (shape i = (.ora, .operand o) → ∃ r : Byte,
      (∀ j, j < 8 → r.getLsbD j = ((dstByte s).getLsbD j || m.getLsbD j)) ∧ writesDst i s r [.n, .z] (nzOf r)) ∧
    (shape i = (.eor, .operand o) → ∃ r : Byte,
      (∀ j, j < 8 → r.getLsbD j = ((dstByte s).getLsbD j != m.getLsbD j)) ∧ writesDst i s r [.n, .z] (nzOf r))

/-- CMP compares A, or M(X) when T is 1; CPX and CPY compare the register: N and Z of the difference modulo 256, C when the
register is at least the operand as unsigned numbers; nothing stored (R207, R208, R209). -/
def Obligations.Compares : Prop :=
  ∀ (i : Instr) (o : Operand) (s : State) (m : Byte), operandByte o s = .next m →
    (shape i = (.cmp, .operand o) → dstReady s = true → writesRegs i s [] [.n, .z, .c] fun t =>
      nzOf (BitVec.ofInt 8 (((dstByte s).toNat : Int) - m.toNat)) t ∧
      t.flag .c = decide (m.toNat ≤ (dstByte s).toNat)) ∧
    (shape i = (.cpx, .operand o) → writesRegs i s [] [.n, .z, .c] fun t =>
      nzOf (BitVec.ofInt 8 ((s.x.toNat : Int) - m.toNat)) t ∧ t.flag .c = decide (m.toNat ≤ s.x.toNat)) ∧
    (shape i = (.cpy, .operand o) → writesRegs i s [] [.n, .z, .c] fun t =>
      nzOf (BitVec.ofInt 8 ((s.y.toNat : Int) - m.toNat)) t ∧ t.flag .c = decide (m.toNat ≤ s.y.toNat))

/-- BIT: N and V are bits 7 and 6 of the byte, Z says that no bit is set in both it and A; TST: N and Z of the byte; nothing
stored (R205, R206). -/
def Obligations.BitAndTst : Prop :=
  ∀ (i : Instr) (o : Operand) (s : State) (m : Byte), operandByte o s = .next m →
    (shape i = (.bit, .operand o) → writesRegs i s [] [.n, .v, .z] fun t =>
      t.flag .n = m.getLsbD 7 ∧ t.flag .v = m.getLsbD 6 ∧
      (t.flag .z = true ↔ ∀ j, j < 8 → ¬(s.a.getLsbD j = true ∧ m.getLsbD j = true))) ∧
    (shape i = (.tst, .operand o) → writesRegs i s [] [.n, .z] (nzOf m))

/-- COM: the one's complement, N and Z of it; RRF: the two nibbles exchanged, no flag (R204, R215). -/
def Obligations.ComAndRrf : Prop :=
  ∀ (i : Instr) (g : Target) (s : State),
    (shape i = (.com, .target g) → modifies i g s (fun v => BitVec.ofNat 8 (255 - v.toNat)) [.n, .z]
      fun v => nzOf (BitVec.ofNat 8 (255 - v.toNat))) ∧
    (shape i = (.rrf, .target g) →
      modifies i g s (fun v => BitVec.ofNat 8 (16 * (v.toNat % 16) + v.toNat / 16)) [] fun _ _ => True)

/-- ASL and LSR: twice or half the byte, the bit shifted out into C, N and Z of the result, so N is 0 after LSR (R210 to
R212). -/
def Obligations.Shifts : Prop :=
  ∀ (i : Instr) (g : Target) (s : State),
    (shape i = (.asl, .target g) → modifies i g s (fun v => BitVec.ofNat 8 (2 * v.toNat)) [.n, .z, .c]
      fun v t => nzOf (BitVec.ofNat 8 (2 * v.toNat)) t ∧ t.flag .c = v.getLsbD 7) ∧
    (shape i = (.lsr, .target g) → modifies i g s (fun v => BitVec.ofNat 8 (v.toNat / 2)) [.n, .z, .c]
      fun v t => nzOf (BitVec.ofNat 8 (v.toNat / 2)) t ∧ t.flag .n = false ∧ t.flag .c = v.getLsbD 0)

/-- ROL and ROR: a rotation of the nine bits of the byte and C, N and Z of the result (R210, R213, R214). -/
def Obligations.Rotates : Prop :=
  ∀ (i : Instr) (g : Target) (s : State),
    (shape i = (.rol, .target g) →
      modifies i g s (fun v => BitVec.ofNat 8 (2 * v.toNat + (s.flag .c).toNat)) [.n, .z, .c]
        fun v t => nzOf (BitVec.ofNat 8 (2 * v.toNat + (s.flag .c).toNat)) t ∧ t.flag .c = v.getLsbD 7) ∧
    (shape i = (.ror, .target g) →
      modifies i g s (fun v => BitVec.ofNat 8 (v.toNat / 2 + 128 * (s.flag .c).toNat)) [.n, .z, .c]
        fun v t => nzOf (BitVec.ofNat 8 (v.toNat / 2 + 128 * (s.flag .c).toNat)) t ∧ t.flag .c = v.getLsbD 0)

/-! ### Bits and flags -/

/-- CLB and SEB on A and on a zero-page byte: the one bit cleared or set, the seven others those read, all eight written
back, no flag; the shadow holds just that bit when it is a request bit (R231, R232, R233, R352). -/
def Obligations.BitInstructions : Prop :=
  ∀ (s : State) (b : Nat) (zz : Byte), b < 8 →
    (writesRegs (.clbAcc b) s [.a] [] fun t =>
      ∀ j, j < 8 → t.a.getLsbD j = (!decide (j = b) && s.a.getLsbD j)) ∧
    (writesRegs (.sebAcc b) s [.a] [] fun t =>
      ∀ j, j < 8 → t.a.getLsbD j = (decide (j = b) || s.a.getLsbD j)) ∧
    (s.mapped (zext16 zz) = true →
      ∃ t v, exec (.clbZp b zz) s = .next t ∧
        (∀ j, j < 8 → v.getLsbD j = (!decide (j = b) && (s.byteAt .data (zext16 zz)).getLsbD j)) ∧
        stored s t (zext16 zz) v ((requestBitsAt s.product (zext16 zz)).filter fun j => j = b) ∧
        t.pc = s.nextPc 2 ∧ keeps [] [] [zext16 zz] s t) ∧
    (s.mapped (zext16 zz) = true →
      ∃ t v, exec (.sebZp b zz) s = .next t ∧
        (∀ j, j < 8 → v.getLsbD j = (decide (j = b) || (s.byteAt .data (zext16 zz)).getLsbD j)) ∧
        stored s t (zext16 zz) v ((requestBitsAt s.product (zext16 zz)).filter fun j => j = b) ∧
        t.pc = s.nextPc 2 ∧ keeps [] [] [zext16 zz] s t)

/-- The nine flag instructions: encoding, cycles, the one flag written, nothing else (R235 to R244). -/
def Obligations.FlagInstructions : Prop :=
  ∀ s : State,
    (encode .clc = [0x18] ∧ cycles .clc s = 2 ∧ writesRegs .clc s [] [.c] fun t => t.flag .c = false) ∧
    (encode .sec = [0x38] ∧ cycles .sec s = 2 ∧ writesRegs .sec s [] [.c] fun t => t.flag .c = true) ∧
    (encode .cld = [0xD8] ∧ cycles .cld s = 2 ∧ writesRegs .cld s [] [.d] fun t => t.flag .d = false) ∧
    (encode .sed = [0xF8] ∧ cycles .sed s = 2 ∧ writesRegs .sed s [] [.d] fun t => t.flag .d = true) ∧
    (encode .cli = [0x58] ∧ cycles .cli s = 2 ∧ writesRegs .cli s [] [.i] fun t => t.flag .i = false) ∧
    (encode .sei = [0x78] ∧ cycles .sei s = 2 ∧ writesRegs .sei s [] [.i] fun t => t.flag .i = true) ∧
    (encode .clt = [0x12] ∧ cycles .clt s = 2 ∧ writesRegs .clt s [] [.t] fun t => t.flag .t = false) ∧
    (encode .set = [0x32] ∧ cycles .set s = 2 ∧ writesRegs .set s [] [.t] fun t => t.flag .t = true) ∧
    (encode .clv = [0xB8] ∧ cycles .clv s = 2 ∧ writesRegs .clv s [] [.v] fun t => t.flag .v = false)

/-! ### Control transfer -/

/-- JMP: to the operand; through the pointer at the operand, low byte first; through a zero-page pointer; no register, no
flag, no byte (R251, R252, R253). -/
def Obligations.Jumps : Prop :=
  ∀ s : State,
    (∀ hhll : Addr, ∃ t, exec (.jmpAbs hhll) s = .next t ∧ t.pc = hhll ∧ t.shadowsClear ∧ keeps [] [] [] s t) ∧
    (∀ hhll : Addr, hhll.toNat % 256 ≠ 255 → s.mapped hhll = true → s.mapped (hhll + 1) = true →
      ∃ t, exec (.jmpInd hhll) s = .next t ∧
        t.pc = BitVec.ofNat 16 (256 * (s.byteAt .pointerHi (hhll + 1)).toNat + (s.byteAt .pointerLo hhll).toNat) ∧
        t.shadowsClear ∧ keeps [] [] [] s t) ∧
    (∀ (zz : Byte) (hi : Addr), zpNext zz s = .next hi → s.mapped (zext16 zz) = true → s.mapped hi = true →
      ∃ t, exec (.jmpZpInd zz) s = .next t ∧
        t.pc = BitVec.ofNat 16 (256 * (s.byteAt .pointerHi hi).toNat + (s.byteAt .pointerLo (zext16 zz)).toNat) ∧
        t.shadowsClear ∧ keeps [] [] [] s t)

/-- JMP indirect through a pointer whose low byte is 0xFF stops by name (R252, R356). -/
def Obligations.JmpIndirectPageEnd : Prop :=
  ∀ (s : State) (hhll : Addr), hhll.toNat % 256 = 255 →
    exec (.jmpInd hhll) s = .refused (.jmpIndirectPageEnd hhll)

/-- BRA and the eight flag branches: encoding, cycles, the flag and the sense that takes each, the target (R254 to R263). -/
def Obligations.RelativeBranches : Prop :=
  ∀ (s : State) (rr : Byte),
    (encode (.bra rr) = [0x80, rr] ∧ cycles (.bra rr) s = 4 ∧ branches (.bra rr) s rr true) ∧
    (encode (.bcc rr) = [0x90, rr] ∧ cycles (.bcc rr) s = (if s.flag .c then 2 else 4) ∧
      branches (.bcc rr) s rr (!s.flag .c)) ∧
    (encode (.bcs rr) = [0xB0, rr] ∧ cycles (.bcs rr) s = (if s.flag .c then 4 else 2) ∧
      branches (.bcs rr) s rr (s.flag .c)) ∧
    (encode (.beq rr) = [0xF0, rr] ∧ cycles (.beq rr) s = (if s.flag .z then 4 else 2) ∧
      branches (.beq rr) s rr (s.flag .z)) ∧
    (encode (.bne rr) = [0xD0, rr] ∧ cycles (.bne rr) s = (if s.flag .z then 2 else 4) ∧
      branches (.bne rr) s rr (!s.flag .z)) ∧
    (encode (.bmi rr) = [0x30, rr] ∧ cycles (.bmi rr) s = (if s.flag .n then 4 else 2) ∧
      branches (.bmi rr) s rr (s.flag .n)) ∧
    (encode (.bpl rr) = [0x10, rr] ∧ cycles (.bpl rr) s = (if s.flag .n then 2 else 4) ∧
      branches (.bpl rr) s rr (!s.flag .n)) ∧
    (encode (.bvc rr) = [0x50, rr] ∧ cycles (.bvc rr) s = (if s.flag .v then 2 else 4) ∧
      branches (.bvc rr) s rr (!s.flag .v)) ∧
    (encode (.bvs rr) = [0x70, rr] ∧ cycles (.bvs rr) s = (if s.flag .v then 4 else 2) ∧
      branches (.bvs rr) s rr (s.flag .v))

/-- BBC and BBS on a bit of A and of a zero-page byte, read once and not written (R264, R265). -/
def Obligations.BitBranches : Prop :=
  ∀ (s : State) (b : Nat) (zz rr : Byte), b < 8 →
    branches (.bbcAcc b rr) s rr (!s.a.getLsbD b) ∧
    branches (.bbsAcc b rr) s rr (s.a.getLsbD b) ∧
    (s.mapped (zext16 zz) = true →
      branches (.bbcZp b zz rr) s rr (!(s.byteAt .data (zext16 zz)).getLsbD b) ∧
      branches (.bbsZp b zz rr) s rr ((s.byteAt .data (zext16 zz)).getLsbD b))

/-- JSR in its three forms: the address of its last byte pushed, high byte first, S down by two, then the target; the
zero-page pointer is read after the pushes; no other register, no flag (R266 to R269). -/
def Obligations.JsrCalls : Prop :=
  ∀ s : State, s.mapped (s.slot 0) = true → s.mapped (s.slot 1) = true →
    let pushed := fun (t : State) (ret : Nat) =>
      holdsAt s t (s.slot 0) (BitVec.ofNat 8 (ret / 256)) ∧ holdsAt s t (s.slot 1) (BitVec.ofNat 8 ret) ∧
        t.sp = s.sp - 2 ∧ keeps [.s] [] [s.slot 0, s.slot 1] s t
    (∀ hhll : Addr, ∃ t, exec (.jsrAbs hhll) s = .next t ∧ t.pc = hhll ∧ pushed t ((s.pc.toNat + 2) % 65536)) ∧
    (∀ hhll : Addr, hhll.toNat / 256 = 255 →
      ∃ t, exec (.jsrSp hhll) s = .next t ∧ t.pc = hhll ∧ pushed t ((s.pc.toNat + 1) % 65536)) ∧
    (∀ (zz : Byte) (hi : Addr), zpNext zz s = .next hi → s.mapped (zext16 zz) = true → s.mapped hi = true →
      ∃ t, exec (.jsrZpInd zz) s = .next t ∧
        t.pc = BitVec.ofNat 16 (256 * (t.byteAt .pointerHi hi).toNat + (t.byteAt .pointerLo (zext16 zz)).toNat) ∧
        pushed t ((s.pc.toNat + 1) % 65536))

/-- RTS: the two bytes above the free slot, low byte first, and one more; S up by two; PS not restored, nothing written
(R270). -/
def Obligations.RtsReturns : Prop :=
  ∀ s : State, s.mapped (s.top 1) = true → s.mapped (s.top 2) = true →
    ∃ t, exec .rts s = .next t ∧
      t.pc = BitVec.ofNat 16
        (256 * (s.byteAt .pull2 (s.top 2)).toNat + (s.byteAt .pull1 (s.top 1)).toNat + 1) ∧
      t.sp = s.sp + 2 ∧ t.shadowsClear ∧ keeps [.s] [] [] s t

/-- RTS right after a JSR whose two stack bytes are RAM goes to the instruction after the JSR with S as before it (R266,
R270). -/
def Obligations.CallThenReturn : Prop :=
  ∀ (i : Instr) (s t : State), mnemonic i = .jsr → exec i s = .next t → s.kind (s.slot 0) = .ram →
    s.kind (s.slot 1) = .ram → ∃ u, exec .rts t = .next u ∧ u.pc = s.nextPc (instrLength i) ∧ u.sp = s.sp

/-! ### BRK, interrupts, standby -/

/-- BRK (R280, R281, R303, R304): PCH, PCL of the opcode's address plus two, then PS with B = 1 and every other bit as
before; S down by three; B and I are 1; through BRK_VECTOR, or while I is 1 through the vector of the highest-priority source
whose request and enable bits are both 1; A, X, Y and the other flags as before; whatever I is. The model's choices: a source
only R351 makes pending does not count for the vector and the request bit stays set (D23, log 18), and the vector is chosen
from the bytes before BRK's own pushes (log 40). -/
def Obligations.BrkTraps : Prop :=
  ∀ (s : State) (v : Addr), s.mapped (s.slot 0) = true → s.mapped (s.slot 1) = true → s.mapped (s.slot 2) = true →
    s.mapped v = true → s.mapped (v + 1) = true →
    ((s.flag .i = false ∨ s.requesting = []) ∧ v = s.product.brkVector ∨
      s.flag .i = true ∧ ∃ k, highestOf s.requesting = some k ∧ v = k.vector) →
    ∃ t, exec .brk s = .next t ∧
      holdsAt s t (s.slot 0) (BitVec.ofNat 8 ((s.pc.toNat + 2) % 65536 / 256)) ∧
      holdsAt s t (s.slot 1) (BitVec.ofNat 8 (s.pc.toNat + 2)) ∧ holdsAt s t (s.slot 2) (s.ps ||| 0x10) ∧
      bytesKept [s.slot 0, s.slot 1, s.slot 2] s t ∧ t.sp = s.sp - 3 ∧ t.ps = s.ps ||| 0x14 ∧
      t.pc = BitVec.ofNat 16 (256 * (t.byteAt .vectorHi (v + 1)).toNat + (t.byteAt .vectorLo v).toNat) ∧
      t.runState = .running ∧ t.shadowsClear ∧ t.a = s.a ∧ t.x = s.x ∧ t.y = s.y ∧
      t.product = s.product ∧ t.env = s.env ∧ t.draws = s.draws

/-- Hardware interrupt entry for source `k` (R312, R313): PCH, PCL of the next instruction, then PS with B = 0; S down by
three; I is 1 and B is 0; the request bit of `k` cleared; through the vector of `k`; Running; shadows clear; A, X, Y and the
other flags as before. That the live B is 0 and T and D are kept are decisions D14 and D15 (log 17). -/
def Obligations.InterruptEntered : Prop :=
  ∀ (s : State) (k : IrqSource), s.mapped (s.slot 0) = true → s.mapped (s.slot 1) = true →
    s.mapped (s.slot 2) = true → s.mapped k.vector = true → s.mapped (k.vector + 1) = true →
    ∃ t, interruptEntry k s = .next t ∧
      (s.slot 0 ≠ k.reqAddr → holdsAt s t (s.slot 0) (BitVec.ofNat 8 (s.pc.toNat / 256))) ∧
      (s.slot 1 ≠ k.reqAddr → holdsAt s t (s.slot 1) (BitVec.ofNat 8 s.pc.toNat)) ∧
      (s.slot 2 ≠ k.reqAddr → holdsAt s t (s.slot 2) (s.ps &&& 0xEF)) ∧
      (t.cell k.reqAddr).getLsbD k.reqBit.val = false ∧
      (k.reqAddr ∉ [s.slot 0, s.slot 1, s.slot 2] → ∀ j, j < 8 → j ≠ k.reqBit.val →
        (t.cell k.reqAddr).getLsbD j = (s.cell k.reqAddr).getLsbD j) ∧
      bytesKept [s.slot 0, s.slot 1, s.slot 2, k.reqAddr] s t ∧ t.sp = s.sp - 3 ∧
      t.ps = s.ps &&& 0xEF ||| 0x04 ∧
      t.pc = BitVec.ofNat 16
        (256 * (t.byteAt .vectorHi (k.vector + 1)).toNat + (t.byteAt .vectorLo k.vector).toNat) ∧
      t.runState = .running ∧ t.shadowsClear ∧ t.a = s.a ∧ t.x = s.x ∧ t.y = s.y ∧
      t.product = s.product ∧ t.env = s.env ∧ t.draws = s.draws

/-- RTI: PS, PCL and PCH pulled, nothing added to PC, S up by three; nothing else (R271, R318). -/
def Obligations.RtiReturns : Prop :=
  ∀ s : State, s.mapped (s.top 1) = true → s.mapped (s.top 2) = true → s.mapped (s.top 3) = true →
    ∃ t, exec .rti s = .next t ∧ t.ps = s.byteAt .pull1 (s.top 1) ∧
      t.pc = BitVec.ofNat 16 (256 * (s.byteAt .pull3 (s.top 3)).toNat + (s.byteAt .pull2 (s.top 2)).toNat) ∧
      t.sp = s.sp + 3 ∧ t.shadowsClear ∧ keeps [.s] allFlags [] s t

/-- RTI right after a hardware interrupt entry whose three stack bytes are RAM and hold no request bit of the source gives
back PC, S, A, X, Y and every flag but B, which is 0 (R311, R312, R318). -/
def Obligations.InterruptThenReturn : Prop :=
  ∀ (s t : State) (k : IrqSource), interruptEntry k s = .next t → s.kind (s.slot 0) = .ram →
    s.kind (s.slot 1) = .ram → s.kind (s.slot 2) = .ram → k.reqAddr ∉ [s.slot 0, s.slot 1, s.slot 2] →
    ∃ u, exec .rti t = .next u ∧ u.pc = s.pc ∧ u.sp = s.sp ∧ u.a = s.a ∧ u.x = s.x ∧ u.y = s.y ∧
      u.flag .b = false ∧ ∀ f, f ≠ .b → u.flag f = s.flag f

/-- STP, WIT and NOP: PC plus one; Stop, or nothing, by STP_MODE; Wait; every register, flag and byte as it was (R283,
R284, R286, R354, R45). -/
def Obligations.ClockControl : Prop :=
  ∀ s : State,
    let standsBy := fun (i : Instr) (r : RunState) => ∃ t, exec i s = .next t ∧ t.runState = r ∧
      t.pc = s.nextPc 1 ∧ t.shadowsClear ∧ keeps [] [] [] s { t with runState := s.runState }
    (s.product.stpMode = .stop → standsBy .stp .stop) ∧
    (s.product.stpMode = .nop → standsBy .stp s.runState) ∧
    standsBy .wit .wait ∧
    (encode .nop = [0xEA] ∧ cycles .nop s = 2 ∧ writesRegs .nop s [] [] fun _ => True)

/-! ### The whole machine -/

/-- Acceptance (R310, R315, R325): only with I = 0; a source of the product with request and enable bit both 1 (or one R351
treats so); none of higher priority left out; in Stop external ones only; and some source is accepted whenever one may be. That
in Stop an external source is accepted although an internal one of higher priority is pending is the model's choice (log 16). -/
def Obligations.Acceptance : Prop :=
  ∀ s : State,
    (∀ k, k ∈ s.pending ↔ k ∈ s.product.irqSources ∧
      ((s.cell k.reqAddr).getLsbD k.reqBit.val = true ∧ (s.cell k.enAddr).getLsbD k.enBit.val = true ∨ k ∈ s.stale)) ∧
    (∀ k, s.acceptable = some k → s.flag .i = false ∧ k ∈ s.pending ∧ (s.runState = .stop → k.external = true) ∧
      ∀ j, j ∈ s.pending → (s.runState = .stop → j.external = true) → j.priority ≤ k.priority) ∧
    (s.flag .i = false → (∃ k, k ∈ s.pending ∧ (s.runState = .stop → k.external = true)) →
      ∃ k, s.acceptable = some k)

/-- Every step keeps the invariant: canonical memories, shadows clear in Wait and Stop, shadows that name only what the
product has. -/
def Obligations.StepKeepsInv : Prop :=
  ∀ s t : State, Inv s → step s = .next t → Inv t

/-- The invariant holds right after reset. -/
def Obligations.ResetHasInv : Prop := Inv State.reset

/-- No step changes a byte of ROM, whatever the CPU or the environment does, in a product whose request bits lie where R305
to R308 put them (R50, R75). -/
def Obligations.RomNeverChanges : Prop :=
  ∀ (s t : State) (a : Addr), Product.wf s.product = true → s.kind a = .rom → step s = .next t → t.cell a = s.cell a

/-- The parameters are fixed for a run (R51): no step changes them. -/
def Obligations.ProductFixed : Prop :=
  ∀ s t : State, step s = .next t → t.product = s.product

/-- The shadows after any instruction (R354): `lastWasPLP` after PLP alone, `lastWasDecimalArith` after ADC and SBC with D =
1 alone, and no request-bit shadow after an instruction that is no writer. -/
def Obligations.ShadowBookkeeping : Prop :=
  ∀ (i : Instr) (s t : State), exec i s = .next t →
    t.lastWasPlp = decide (mnemonic i = .plp) ∧
    t.lastWasDecimal = (decide (mnemonic i = .adc ∨ mnemonic i = .sbc) && s.flag .d) ∧
    ((∀ a, requestBitsAt s.product a = []) → t.touched = none) ∧
    (mnemonic i ∈ ([.ldx, .ldy, .tax, .txa, .tay, .tya, .tsx, .txs, .pla, .plp, .inx, .iny, .dex, .dey, .bit, .tst, .cmp,
        .cpx, .cpy, .clc, .sec, .cld, .sed, .cli, .sei, .clt, .set, .clv, .jmp, .bra, .bcc, .bcs, .beq, .bne, .bmi, .bpl,
        .bvc, .bvs, .bbc, .bbs, .rts, .rti, .brk, .stp, .wit, .nop] : List Mnemonic) →
      t.touched = none ∧ t.stale = [])

/-- Which instructions write which register (R21, R22, R23, R24, R49), and which leave Running (R45, R332). -/
def Obligations.RegisterWriters : Prop :=
  ∀ (i : Instr) (s t : State), exec i s = .next t →
    (t.a ≠ s.a → mnemonic i ∈ ([.lda, .pla, .txa, .tya, .adc, .sbc, .and, .ora, .eor, .asl, .lsr, .rol, .ror, .inc, .dec,
      .clb, .seb, .mul, .div] : List Mnemonic)) ∧
    (t.x ≠ s.x → mnemonic i ∈ ([.ldx, .tax, .tsx, .inx, .dex] : List Mnemonic)) ∧
    (t.y ≠ s.y → mnemonic i ∈ ([.ldy, .tay, .iny, .dey] : List Mnemonic)) ∧
    (t.sp ≠ s.sp → mnemonic i ∈ ([.txs, .pha, .php, .pla, .plp, .jsr, .rts, .rti, .brk, .mul, .div] : List Mnemonic)) ∧
    (s.runState = .running → t.runState ≠ s.runState → mnemonic i ∈ ([.stp, .wit] : List Mnemonic))

/-- Which instructions write which flag (R30 to R37, R309); no instruction lets interrupts in but CLI, PLP and RTI. -/
def Obligations.FlagWriters : Prop :=
  ∀ (i : Instr) (s t : State), exec i s = .next t →
    (t.flag .c ≠ s.flag .c → mnemonic i ∈ ([.adc, .sbc, .cmp, .cpx, .cpy, .asl, .lsr, .rol, .ror, .sec, .clc, .plp,
      .rti] : List Mnemonic)) ∧
    (t.flag .i ≠ s.flag .i → mnemonic i ∈ ([.sei, .cli, .brk, .plp, .rti] : List Mnemonic)) ∧
    (s.flag .i = true → t.flag .i = false → mnemonic i ∈ ([.cli, .plp, .rti] : List Mnemonic)) ∧
    (t.flag .d ≠ s.flag .d → mnemonic i ∈ ([.sed, .cld, .plp, .rti] : List Mnemonic)) ∧
    (t.flag .b ≠ s.flag .b → mnemonic i ∈ ([.brk, .plp, .rti] : List Mnemonic)) ∧
    (t.flag .t ≠ s.flag .t → mnemonic i ∈ ([.set, .clt, .plp, .rti] : List Mnemonic)) ∧
    (t.flag .v ≠ s.flag .v → mnemonic i ∈ ([.adc, .sbc, .bit, .clv, .plp, .rti] : List Mnemonic)) ∧
    (t.flag .n ≠ s.flag .n ∨ t.flag .z ≠ s.flag .z → mnemonic i ∈ ([.adc, .and, .asl, .bit, .cmp, .com, .cpx, .cpy, .dec,
      .dex, .dey, .eor, .inc, .inx, .iny, .lda, .ldx, .ldy, .lsr, .ora, .pla, .rol, .ror, .sbc, .tax, .tay, .tst, .tsx,
      .txa, .tya, .plp, .rti] : List Mnemonic))

/-- Any instruction whose one byte write clears the request bit of a source and sets its enable bit (R351, R322): with I = 0
the source is pending at the next boundary although its request bit is 0, and some source is accepted there. The second clause
is LDM's, from its operands. What counts as that write, a push of JSR among others, is the model's reading (log 19). -/
def Obligations.StaleRequestAccepted : Prop :=
  ∀ (s t : State) (k : IrqSource), k ∈ s.product.irqSources → k.reqAddr = k.enAddr → k.reqBit ≠ k.enBit →
    (s.cell k.reqAddr).getLsbD k.reqBit.val = true → (s.cell k.reqAddr).getLsbD k.enBit.val = false →
    s.runState = .running →
    (∀ i, exec i s = .next t →
      (t.cell k.reqAddr).getLsbD k.reqBit.val = false → (t.cell k.reqAddr).getLsbD k.enBit.val = true →
      t.flag .i = false → k ∈ t.pending ∧ ∃ j, t.acceptable = some j ∧ k.priority ≤ j.priority) ∧
    (∀ nn zz, exec (.ldmZp nn zz) s = .next t → k.reqAddr = zext16 zz →
      (s.kind (zext16 zz) = .control ∨ s.kind (zext16 zz) = .ram) →
      nn.getLsbD k.reqBit.val = false → nn.getLsbD k.enBit.val = true →
      (∀ j, j ∈ s.product.irqSources → j.reqAddr = zext16 zz → j.reqBit ≠ k.enBit) → s.flag .i = false →
      (t.cell (zext16 zz)).getLsbD k.reqBit.val = false ∧ k ∈ t.pending ∧
        ∃ j, t.acceptable = some j ∧ k.priority ≤ j.priority)

/-- Reset (R48, R340, R341): I is 1, Running, every shadow clear, PC the start address; the product, ROM and RAM are kept and
every port direction register says input. Nothing is said of A, X, Y, S and the other flags. The model's choices: that memory
is kept (log 25), and that a start vector is the two bytes held there whatever the kind of the addresses (log 39). -/
def Obligations.ResetState : Prop :=
  (State.reset.flag .i = true ∧ State.reset.runState = .running ∧ State.reset.shadowsClear) ∧
  ∀ s : State, (hardwareReset s).flag .i = true ∧ (hardwareReset s).runState = .running ∧
    (hardwareReset s).shadowsClear ∧ (hardwareReset s).product = s.product ∧
    (∀ start, s.product.resetPc = .fixed start → (hardwareReset s).pc = start) ∧
    (∀ v, s.product.resetPc = .vector v → (hardwareReset s).pc =
      BitVec.ofNat 16 (256 * (s.cell (v + 1)).toNat + (s.cell v).toNat)) ∧
    (hardwareReset s).acceptable = none ∧
    ∀ a, (s.kind a ≠ .portDirection → (hardwareReset s).cell a = s.cell a) ∧
      (s.kind a = .portDirection → ∀ j, j < 8 → ((hardwareReset s).cell a).getLsbD j = !s.product.outputIsOne)
end

