-- ==== Sys2Proof/Laws/Bits.lean ====
section
/-! SUPPORT. The bit-field and byte-order helpers as arithmetic. -/

namespace Sys2Proof

theorem cat16_toNat (hh ll : Byte) : (cat16 hh ll).toNat = 256 * hh.toNat + ll.toNat := by
  have h1 := ll.isLt
  have h2 : 256 * hh.toNat + ll.toNat = (256 * hh.toNat) ||| ll.toNat :=
    Nat.two_pow_add_eq_or_of_lt (i := 8) (b := ll.toNat) (by omega) hh.toNat
  rw [h2, Nat.mul_comm, cat16]
  exact (BitVec.toNat_append hh ll).trans (by rw [Nat.shiftLeft_eq])

theorem hiByte_toNat (w : Addr) : (hiByte w).toNat = w.toNat / 256 := by
  have := w.isLt
  simp [hiByte, Nat.shiftRight_eq_div_pow]; omega

theorem loByte_toNat (w : Addr) : (loByte w).toNat = w.toNat % 256 := by simp [loByte]

theorem zext16_toNat (b : Byte) : (zext16 b).toNat = b.toNat := by
  have := b.isLt
  simp [zext16]; omega

/-- A 16-bit value is its two bytes. -/
theorem cat16_hiByte_loByte (w : Addr) : cat16 (hiByte w) (loByte w) = w := by
  apply BitVec.eq_of_toNat_eq
  rw [cat16_toNat, hiByte_toNat, loByte_toNat]
  omega

@[simp] theorem hiByte_cat16 (hh ll : Byte) : hiByte (cat16 hh ll) = hh := by
  apply BitVec.eq_of_toNat_eq
  rw [hiByte_toNat, cat16_toNat]
  have := ll.isLt
  omega

@[simp] theorem loByte_cat16 (hh ll : Byte) : loByte (cat16 hh ll) = ll := by
  apply BitVec.eq_of_toNat_eq
  rw [loByte_toNat, cat16_toNat]
  have := ll.isLt
  omega

theorem cat16_injective {hh ll hh' ll' : Byte} (h : cat16 hh ll = cat16 hh' ll') : hh = hh' ∧ ll = ll' :=
  ⟨by simpa using congrArg hiByte h, by simpa using congrArg loByte h⟩

theorem sext16_toInt (b : Byte) : (sext16 b).toInt = b.toInt := BitVec.toInt_signExtend_of_le (by omega)

end Sys2Proof
end

