-- ==== Sys2Proof/Laws/State.lean ====
section
/-! SUPPORT. One lemma per field and update of the state: what an update leaves in each field, so that no proof unfolds it.
And what the views of a state (a flag, a byte held, the kind of an address) are after an update that does not touch them. -/

namespace Sys2Proof.Machine

/-! ### clearShadows -/

@[simp] theorem clearShadows_a (s : State) : s.clearShadows.a = s.a :=
  rfl
@[simp] theorem clearShadows_x (s : State) : s.clearShadows.x = s.x :=
  rfl
@[simp] theorem clearShadows_y (s : State) : s.clearShadows.y = s.y :=
  rfl
@[simp] theorem clearShadows_sp (s : State) : s.clearShadows.sp = s.sp :=
  rfl
@[simp] theorem clearShadows_pc (s : State) : s.clearShadows.pc = s.pc :=
  rfl
@[simp] theorem clearShadows_ps (s : State) : s.clearShadows.ps = s.ps :=
  rfl
@[simp] theorem clearShadows_runState (s : State) : s.clearShadows.runState = s.runState :=
  rfl
@[simp] theorem clearShadows_lastWasPlp (s : State) : s.clearShadows.lastWasPlp = false :=
  rfl
@[simp] theorem clearShadows_lastWasDecimal (s : State) : s.clearShadows.lastWasDecimal = false :=
  rfl
@[simp] theorem clearShadows_touched (s : State) : s.clearShadows.touched = none :=
  rfl
@[simp] theorem clearShadows_stale (s : State) : s.clearShadows.stale = [] :=
  rfl
@[simp] theorem clearShadows_mem (s : State) : s.clearShadows.mem = s.mem :=
  rfl
@[simp] theorem clearShadows_inputs (s : State) : s.clearShadows.inputs = s.inputs :=
  rfl
@[simp] theorem clearShadows_draws (s : State) : s.clearShadows.draws = s.draws :=
  rfl
@[simp] theorem clearShadows_env (s : State) : s.clearShadows.env = s.env :=
  rfl
@[simp] theorem clearShadows_product (s : State) : s.clearShadows.product = s.product :=
  rfl

/-! ### begin -/

@[simp] theorem begin_a (s : State) (n : Nat) : (s.begin n).a = s.a :=
  rfl
@[simp] theorem begin_x (s : State) (n : Nat) : (s.begin n).x = s.x :=
  rfl
@[simp] theorem begin_y (s : State) (n : Nat) : (s.begin n).y = s.y :=
  rfl
@[simp] theorem begin_sp (s : State) (n : Nat) : (s.begin n).sp = s.sp :=
  rfl
@[simp] theorem begin_pc (s : State) (n : Nat) : (s.begin n).pc = s.nextPc n :=
  rfl
@[simp] theorem begin_ps (s : State) (n : Nat) : (s.begin n).ps = s.ps :=
  rfl
@[simp] theorem begin_runState (s : State) (n : Nat) : (s.begin n).runState = s.runState :=
  rfl
@[simp] theorem begin_lastWasPlp (s : State) (n : Nat) : (s.begin n).lastWasPlp = false :=
  rfl
@[simp] theorem begin_lastWasDecimal (s : State) (n : Nat) : (s.begin n).lastWasDecimal = false :=
  rfl
@[simp] theorem begin_touched (s : State) (n : Nat) : (s.begin n).touched = none :=
  rfl
@[simp] theorem begin_stale (s : State) (n : Nat) : (s.begin n).stale = [] :=
  rfl
@[simp] theorem begin_mem (s : State) (n : Nat) : (s.begin n).mem = s.mem :=
  rfl
@[simp] theorem begin_inputs (s : State) (n : Nat) : (s.begin n).inputs = s.inputs :=
  rfl
@[simp] theorem begin_draws (s : State) (n : Nat) : (s.begin n).draws = s.draws :=
  rfl
@[simp] theorem begin_env (s : State) (n : Nat) : (s.begin n).env = s.env :=
  rfl
@[simp] theorem begin_product (s : State) (n : Nat) : (s.begin n).product = s.product :=
  rfl

/-! ### setFlag -/

@[simp] theorem setFlag_a (s : State) (f : Flag) (v : Bool) : (s.setFlag f v).a = s.a :=
  rfl
@[simp] theorem setFlag_x (s : State) (f : Flag) (v : Bool) : (s.setFlag f v).x = s.x :=
  rfl
@[simp] theorem setFlag_y (s : State) (f : Flag) (v : Bool) : (s.setFlag f v).y = s.y :=
  rfl
@[simp] theorem setFlag_sp (s : State) (f : Flag) (v : Bool) : (s.setFlag f v).sp = s.sp :=
  rfl
@[simp] theorem setFlag_pc (s : State) (f : Flag) (v : Bool) : (s.setFlag f v).pc = s.pc :=
  rfl
@[simp] theorem setFlag_ps (s : State) (f : Flag) (v : Bool) : (s.setFlag f v).ps = putFlag s.ps f v :=
  rfl
@[simp] theorem setFlag_runState (s : State) (f : Flag) (v : Bool) : (s.setFlag f v).runState = s.runState :=
  rfl
@[simp] theorem setFlag_lastWasPlp (s : State) (f : Flag) (v : Bool) : (s.setFlag f v).lastWasPlp = s.lastWasPlp :=
  rfl
@[simp] theorem setFlag_lastWasDecimal (s : State) (f : Flag) (v : Bool) : (s.setFlag f v).lastWasDecimal = s.lastWasDecimal :=
  rfl
@[simp] theorem setFlag_touched (s : State) (f : Flag) (v : Bool) : (s.setFlag f v).touched = s.touched :=
  rfl
@[simp] theorem setFlag_stale (s : State) (f : Flag) (v : Bool) : (s.setFlag f v).stale = s.stale :=
  rfl
@[simp] theorem setFlag_mem (s : State) (f : Flag) (v : Bool) : (s.setFlag f v).mem = s.mem :=
  rfl
@[simp] theorem setFlag_inputs (s : State) (f : Flag) (v : Bool) : (s.setFlag f v).inputs = s.inputs :=
  rfl
@[simp] theorem setFlag_draws (s : State) (f : Flag) (v : Bool) : (s.setFlag f v).draws = s.draws :=
  rfl
@[simp] theorem setFlag_env (s : State) (f : Flag) (v : Bool) : (s.setFlag f v).env = s.env :=
  rfl
@[simp] theorem setFlag_product (s : State) (f : Flag) (v : Bool) : (s.setFlag f v).product = s.product :=
  rfl

/-! ### setNZ -/

@[simp] theorem setNZ_a (s : State) (v : Byte) : (s.setNZ v).a = s.a :=
  by simp only [State.setNZ, setFlag_a]
@[simp] theorem setNZ_x (s : State) (v : Byte) : (s.setNZ v).x = s.x :=
  by simp only [State.setNZ, setFlag_x]
@[simp] theorem setNZ_y (s : State) (v : Byte) : (s.setNZ v).y = s.y :=
  by simp only [State.setNZ, setFlag_y]
@[simp] theorem setNZ_sp (s : State) (v : Byte) : (s.setNZ v).sp = s.sp :=
  by simp only [State.setNZ, setFlag_sp]
@[simp] theorem setNZ_pc (s : State) (v : Byte) : (s.setNZ v).pc = s.pc :=
  by simp only [State.setNZ, setFlag_pc]
@[simp] theorem setNZ_runState (s : State) (v : Byte) : (s.setNZ v).runState = s.runState :=
  by simp only [State.setNZ, setFlag_runState]
@[simp] theorem setNZ_lastWasPlp (s : State) (v : Byte) : (s.setNZ v).lastWasPlp = s.lastWasPlp :=
  by simp only [State.setNZ, setFlag_lastWasPlp]
@[simp] theorem setNZ_lastWasDecimal (s : State) (v : Byte) : (s.setNZ v).lastWasDecimal = s.lastWasDecimal :=
  by simp only [State.setNZ, setFlag_lastWasDecimal]
@[simp] theorem setNZ_touched (s : State) (v : Byte) : (s.setNZ v).touched = s.touched :=
  by simp only [State.setNZ, setFlag_touched]
@[simp] theorem setNZ_stale (s : State) (v : Byte) : (s.setNZ v).stale = s.stale :=
  by simp only [State.setNZ, setFlag_stale]
@[simp] theorem setNZ_mem (s : State) (v : Byte) : (s.setNZ v).mem = s.mem :=
  by simp only [State.setNZ, setFlag_mem]
@[simp] theorem setNZ_inputs (s : State) (v : Byte) : (s.setNZ v).inputs = s.inputs :=
  by simp only [State.setNZ, setFlag_inputs]
@[simp] theorem setNZ_draws (s : State) (v : Byte) : (s.setNZ v).draws = s.draws :=
  by simp only [State.setNZ, setFlag_draws]
@[simp] theorem setNZ_env (s : State) (v : Byte) : (s.setNZ v).env = s.env :=
  by simp only [State.setNZ, setFlag_env]
@[simp] theorem setNZ_product (s : State) (v : Byte) : (s.setNZ v).product = s.product :=
  by simp only [State.setNZ, setFlag_product]

/-! ### setCompare -/

@[simp] theorem setCompare_a (s : State) (a m : Byte) : (s.setCompare a m).a = s.a :=
  by simp only [State.setCompare, setNZ_a, setFlag_a]
@[simp] theorem setCompare_x (s : State) (a m : Byte) : (s.setCompare a m).x = s.x :=
  by simp only [State.setCompare, setNZ_x, setFlag_x]
@[simp] theorem setCompare_y (s : State) (a m : Byte) : (s.setCompare a m).y = s.y :=
  by simp only [State.setCompare, setNZ_y, setFlag_y]
@[simp] theorem setCompare_sp (s : State) (a m : Byte) : (s.setCompare a m).sp = s.sp :=
  by simp only [State.setCompare, setNZ_sp, setFlag_sp]
@[simp] theorem setCompare_pc (s : State) (a m : Byte) : (s.setCompare a m).pc = s.pc :=
  by simp only [State.setCompare, setNZ_pc, setFlag_pc]
@[simp] theorem setCompare_runState (s : State) (a m : Byte) : (s.setCompare a m).runState = s.runState :=
  by simp only [State.setCompare, setNZ_runState, setFlag_runState]
@[simp] theorem setCompare_lastWasPlp (s : State) (a m : Byte) : (s.setCompare a m).lastWasPlp = s.lastWasPlp :=
  by simp only [State.setCompare, setNZ_lastWasPlp, setFlag_lastWasPlp]
@[simp] theorem setCompare_lastWasDecimal (s : State) (a m : Byte) : (s.setCompare a m).lastWasDecimal = s.lastWasDecimal :=
  by simp only [State.setCompare, setNZ_lastWasDecimal, setFlag_lastWasDecimal]
@[simp] theorem setCompare_touched (s : State) (a m : Byte) : (s.setCompare a m).touched = s.touched :=
  by simp only [State.setCompare, setNZ_touched, setFlag_touched]
@[simp] theorem setCompare_stale (s : State) (a m : Byte) : (s.setCompare a m).stale = s.stale :=
  by simp only [State.setCompare, setNZ_stale, setFlag_stale]
@[simp] theorem setCompare_mem (s : State) (a m : Byte) : (s.setCompare a m).mem = s.mem :=
  by simp only [State.setCompare, setNZ_mem, setFlag_mem]
@[simp] theorem setCompare_inputs (s : State) (a m : Byte) : (s.setCompare a m).inputs = s.inputs :=
  by simp only [State.setCompare, setNZ_inputs, setFlag_inputs]
@[simp] theorem setCompare_draws (s : State) (a m : Byte) : (s.setCompare a m).draws = s.draws :=
  by simp only [State.setCompare, setNZ_draws, setFlag_draws]
@[simp] theorem setCompare_env (s : State) (a m : Byte) : (s.setCompare a m).env = s.env :=
  by simp only [State.setCompare, setNZ_env, setFlag_env]
@[simp] theorem setCompare_product (s : State) (a m : Byte) : (s.setCompare a m).product = s.product :=
  by simp only [State.setCompare, setNZ_product, setFlag_product]

/-! ### setBitTest -/

@[simp] theorem setBitTest_a (s : State) (a m : Byte) : (s.setBitTest a m).a = s.a :=
  by simp only [State.setBitTest, setFlag_a]
@[simp] theorem setBitTest_x (s : State) (a m : Byte) : (s.setBitTest a m).x = s.x :=
  by simp only [State.setBitTest, setFlag_x]
@[simp] theorem setBitTest_y (s : State) (a m : Byte) : (s.setBitTest a m).y = s.y :=
  by simp only [State.setBitTest, setFlag_y]
@[simp] theorem setBitTest_sp (s : State) (a m : Byte) : (s.setBitTest a m).sp = s.sp :=
  by simp only [State.setBitTest, setFlag_sp]
@[simp] theorem setBitTest_pc (s : State) (a m : Byte) : (s.setBitTest a m).pc = s.pc :=
  by simp only [State.setBitTest, setFlag_pc]
@[simp] theorem setBitTest_runState (s : State) (a m : Byte) : (s.setBitTest a m).runState = s.runState :=
  by simp only [State.setBitTest, setFlag_runState]
@[simp] theorem setBitTest_lastWasPlp (s : State) (a m : Byte) : (s.setBitTest a m).lastWasPlp = s.lastWasPlp :=
  by simp only [State.setBitTest, setFlag_lastWasPlp]
@[simp] theorem setBitTest_lastWasDecimal (s : State) (a m : Byte) : (s.setBitTest a m).lastWasDecimal = s.lastWasDecimal :=
  by simp only [State.setBitTest, setFlag_lastWasDecimal]
@[simp] theorem setBitTest_touched (s : State) (a m : Byte) : (s.setBitTest a m).touched = s.touched :=
  by simp only [State.setBitTest, setFlag_touched]
@[simp] theorem setBitTest_stale (s : State) (a m : Byte) : (s.setBitTest a m).stale = s.stale :=
  by simp only [State.setBitTest, setFlag_stale]
@[simp] theorem setBitTest_mem (s : State) (a m : Byte) : (s.setBitTest a m).mem = s.mem :=
  by simp only [State.setBitTest, setFlag_mem]
@[simp] theorem setBitTest_inputs (s : State) (a m : Byte) : (s.setBitTest a m).inputs = s.inputs :=
  by simp only [State.setBitTest, setFlag_inputs]
@[simp] theorem setBitTest_draws (s : State) (a m : Byte) : (s.setBitTest a m).draws = s.draws :=
  by simp only [State.setBitTest, setFlag_draws]
@[simp] theorem setBitTest_env (s : State) (a m : Byte) : (s.setBitTest a m).env = s.env :=
  by simp only [State.setBitTest, setFlag_env]
@[simp] theorem setBitTest_product (s : State) (a m : Byte) : (s.setBitTest a m).product = s.product :=
  by simp only [State.setBitTest, setFlag_product]

/-! ### setShift -/

@[simp] theorem setShift_a (s : State) (o : Shifted) : (s.setShift o).a = s.a :=
  by simp only [State.setShift, setNZ_a, setFlag_a]
@[simp] theorem setShift_x (s : State) (o : Shifted) : (s.setShift o).x = s.x :=
  by simp only [State.setShift, setNZ_x, setFlag_x]
@[simp] theorem setShift_y (s : State) (o : Shifted) : (s.setShift o).y = s.y :=
  by simp only [State.setShift, setNZ_y, setFlag_y]
@[simp] theorem setShift_sp (s : State) (o : Shifted) : (s.setShift o).sp = s.sp :=
  by simp only [State.setShift, setNZ_sp, setFlag_sp]
@[simp] theorem setShift_pc (s : State) (o : Shifted) : (s.setShift o).pc = s.pc :=
  by simp only [State.setShift, setNZ_pc, setFlag_pc]
@[simp] theorem setShift_runState (s : State) (o : Shifted) : (s.setShift o).runState = s.runState :=
  by simp only [State.setShift, setNZ_runState, setFlag_runState]
@[simp] theorem setShift_lastWasPlp (s : State) (o : Shifted) : (s.setShift o).lastWasPlp = s.lastWasPlp :=
  by simp only [State.setShift, setNZ_lastWasPlp, setFlag_lastWasPlp]
@[simp] theorem setShift_lastWasDecimal (s : State) (o : Shifted) : (s.setShift o).lastWasDecimal = s.lastWasDecimal :=
  by simp only [State.setShift, setNZ_lastWasDecimal, setFlag_lastWasDecimal]
@[simp] theorem setShift_touched (s : State) (o : Shifted) : (s.setShift o).touched = s.touched :=
  by simp only [State.setShift, setNZ_touched, setFlag_touched]
@[simp] theorem setShift_stale (s : State) (o : Shifted) : (s.setShift o).stale = s.stale :=
  by simp only [State.setShift, setNZ_stale, setFlag_stale]
@[simp] theorem setShift_mem (s : State) (o : Shifted) : (s.setShift o).mem = s.mem :=
  by simp only [State.setShift, setNZ_mem, setFlag_mem]
@[simp] theorem setShift_inputs (s : State) (o : Shifted) : (s.setShift o).inputs = s.inputs :=
  by simp only [State.setShift, setNZ_inputs, setFlag_inputs]
@[simp] theorem setShift_draws (s : State) (o : Shifted) : (s.setShift o).draws = s.draws :=
  by simp only [State.setShift, setNZ_draws, setFlag_draws]
@[simp] theorem setShift_env (s : State) (o : Shifted) : (s.setShift o).env = s.env :=
  by simp only [State.setShift, setNZ_env, setFlag_env]
@[simp] theorem setShift_product (s : State) (o : Shifted) : (s.setShift o).product = s.product :=
  by simp only [State.setShift, setNZ_product, setFlag_product]

/-! ### setArith -/

@[simp] theorem setArith_a (s : State) (o : Arith) : (s.setArith o).a = s.a :=
  by simp only [State.setArith, setFlag_a]
@[simp] theorem setArith_x (s : State) (o : Arith) : (s.setArith o).x = s.x :=
  by simp only [State.setArith, setFlag_x]
@[simp] theorem setArith_y (s : State) (o : Arith) : (s.setArith o).y = s.y :=
  by simp only [State.setArith, setFlag_y]
@[simp] theorem setArith_sp (s : State) (o : Arith) : (s.setArith o).sp = s.sp :=
  by simp only [State.setArith, setFlag_sp]
@[simp] theorem setArith_pc (s : State) (o : Arith) : (s.setArith o).pc = s.pc :=
  by simp only [State.setArith, setFlag_pc]
@[simp] theorem setArith_runState (s : State) (o : Arith) : (s.setArith o).runState = s.runState :=
  by simp only [State.setArith, setFlag_runState]
@[simp] theorem setArith_lastWasPlp (s : State) (o : Arith) : (s.setArith o).lastWasPlp = s.lastWasPlp :=
  by simp only [State.setArith, setFlag_lastWasPlp]
@[simp] theorem setArith_lastWasDecimal (s : State) (o : Arith) : (s.setArith o).lastWasDecimal = s.lastWasDecimal :=
  by simp only [State.setArith, setFlag_lastWasDecimal]
@[simp] theorem setArith_touched (s : State) (o : Arith) : (s.setArith o).touched = s.touched :=
  by simp only [State.setArith, setFlag_touched]
@[simp] theorem setArith_stale (s : State) (o : Arith) : (s.setArith o).stale = s.stale :=
  by simp only [State.setArith, setFlag_stale]
@[simp] theorem setArith_mem (s : State) (o : Arith) : (s.setArith o).mem = s.mem :=
  by simp only [State.setArith, setFlag_mem]
@[simp] theorem setArith_inputs (s : State) (o : Arith) : (s.setArith o).inputs = s.inputs :=
  by simp only [State.setArith, setFlag_inputs]
@[simp] theorem setArith_draws (s : State) (o : Arith) : (s.setArith o).draws = s.draws :=
  by simp only [State.setArith, setFlag_draws]
@[simp] theorem setArith_env (s : State) (o : Arith) : (s.setArith o).env = s.env :=
  by simp only [State.setArith, setFlag_env]
@[simp] theorem setArith_product (s : State) (o : Arith) : (s.setArith o).product = s.product :=
  by simp only [State.setArith, setFlag_product]

/-! ### setCell -/

@[simp] theorem setCell_a (s : State) (a : Addr) (v : Byte) : (s.setCell a v).a = s.a :=
  rfl
@[simp] theorem setCell_x (s : State) (a : Addr) (v : Byte) : (s.setCell a v).x = s.x :=
  rfl
@[simp] theorem setCell_y (s : State) (a : Addr) (v : Byte) : (s.setCell a v).y = s.y :=
  rfl
@[simp] theorem setCell_sp (s : State) (a : Addr) (v : Byte) : (s.setCell a v).sp = s.sp :=
  rfl
@[simp] theorem setCell_pc (s : State) (a : Addr) (v : Byte) : (s.setCell a v).pc = s.pc :=
  rfl
@[simp] theorem setCell_ps (s : State) (a : Addr) (v : Byte) : (s.setCell a v).ps = s.ps :=
  rfl
@[simp] theorem setCell_runState (s : State) (a : Addr) (v : Byte) : (s.setCell a v).runState = s.runState :=
  rfl
@[simp] theorem setCell_lastWasPlp (s : State) (a : Addr) (v : Byte) : (s.setCell a v).lastWasPlp = s.lastWasPlp :=
  rfl
@[simp] theorem setCell_lastWasDecimal (s : State) (a : Addr) (v : Byte) : (s.setCell a v).lastWasDecimal = s.lastWasDecimal :=
  rfl
@[simp] theorem setCell_touched (s : State) (a : Addr) (v : Byte) : (s.setCell a v).touched = s.touched :=
  rfl
@[simp] theorem setCell_stale (s : State) (a : Addr) (v : Byte) : (s.setCell a v).stale = s.stale :=
  rfl
@[simp] theorem setCell_mem (s : State) (a : Addr) (v : Byte) : (s.setCell a v).mem = Memory.set s.mem a v :=
  rfl
@[simp] theorem setCell_inputs (s : State) (a : Addr) (v : Byte) : (s.setCell a v).inputs = s.inputs :=
  rfl
@[simp] theorem setCell_draws (s : State) (a : Addr) (v : Byte) : (s.setCell a v).draws = s.draws :=
  rfl
@[simp] theorem setCell_env (s : State) (a : Addr) (v : Byte) : (s.setCell a v).env = s.env :=
  rfl
@[simp] theorem setCell_product (s : State) (a : Addr) (v : Byte) : (s.setCell a v).product = s.product :=
  rfl

/-! ### setInput -/

@[simp] theorem setInput_a (s : State) (a : Addr) (v : Byte) : (s.setInput a v).a = s.a :=
  rfl
@[simp] theorem setInput_x (s : State) (a : Addr) (v : Byte) : (s.setInput a v).x = s.x :=
  rfl
@[simp] theorem setInput_y (s : State) (a : Addr) (v : Byte) : (s.setInput a v).y = s.y :=
  rfl
@[simp] theorem setInput_sp (s : State) (a : Addr) (v : Byte) : (s.setInput a v).sp = s.sp :=
  rfl
@[simp] theorem setInput_pc (s : State) (a : Addr) (v : Byte) : (s.setInput a v).pc = s.pc :=
  rfl
@[simp] theorem setInput_ps (s : State) (a : Addr) (v : Byte) : (s.setInput a v).ps = s.ps :=
  rfl
@[simp] theorem setInput_runState (s : State) (a : Addr) (v : Byte) : (s.setInput a v).runState = s.runState :=
  rfl
@[simp] theorem setInput_lastWasPlp (s : State) (a : Addr) (v : Byte) : (s.setInput a v).lastWasPlp = s.lastWasPlp :=
  rfl
@[simp] theorem setInput_lastWasDecimal (s : State) (a : Addr) (v : Byte) : (s.setInput a v).lastWasDecimal = s.lastWasDecimal :=
  rfl
@[simp] theorem setInput_touched (s : State) (a : Addr) (v : Byte) : (s.setInput a v).touched = s.touched :=
  rfl
@[simp] theorem setInput_stale (s : State) (a : Addr) (v : Byte) : (s.setInput a v).stale = s.stale :=
  rfl
@[simp] theorem setInput_mem (s : State) (a : Addr) (v : Byte) : (s.setInput a v).mem = s.mem :=
  rfl
@[simp] theorem setInput_inputs (s : State) (a : Addr) (v : Byte) : (s.setInput a v).inputs = Memory.set s.inputs a v :=
  rfl
@[simp] theorem setInput_draws (s : State) (a : Addr) (v : Byte) : (s.setInput a v).draws = s.draws :=
  rfl
@[simp] theorem setInput_env (s : State) (a : Addr) (v : Byte) : (s.setInput a v).env = s.env :=
  rfl
@[simp] theorem setInput_product (s : State) (a : Addr) (v : Byte) : (s.setInput a v).product = s.product :=
  rfl

/-! ### putA -/

@[simp] theorem putA_a (s : State) (v : Byte) : (putA v s).a = v :=
  rfl
@[simp] theorem putA_x (s : State) (v : Byte) : (putA v s).x = s.x :=
  rfl
@[simp] theorem putA_y (s : State) (v : Byte) : (putA v s).y = s.y :=
  rfl
@[simp] theorem putA_sp (s : State) (v : Byte) : (putA v s).sp = s.sp :=
  rfl
@[simp] theorem putA_pc (s : State) (v : Byte) : (putA v s).pc = s.pc :=
  rfl
@[simp] theorem putA_ps (s : State) (v : Byte) : (putA v s).ps = s.ps :=
  rfl
@[simp] theorem putA_runState (s : State) (v : Byte) : (putA v s).runState = s.runState :=
  rfl
@[simp] theorem putA_lastWasPlp (s : State) (v : Byte) : (putA v s).lastWasPlp = s.lastWasPlp :=
  rfl
@[simp] theorem putA_lastWasDecimal (s : State) (v : Byte) : (putA v s).lastWasDecimal = s.lastWasDecimal :=
  rfl
@[simp] theorem putA_touched (s : State) (v : Byte) : (putA v s).touched = s.touched :=
  rfl
@[simp] theorem putA_stale (s : State) (v : Byte) : (putA v s).stale = s.stale :=
  rfl
@[simp] theorem putA_mem (s : State) (v : Byte) : (putA v s).mem = s.mem :=
  rfl
@[simp] theorem putA_inputs (s : State) (v : Byte) : (putA v s).inputs = s.inputs :=
  rfl
@[simp] theorem putA_draws (s : State) (v : Byte) : (putA v s).draws = s.draws :=
  rfl
@[simp] theorem putA_env (s : State) (v : Byte) : (putA v s).env = s.env :=
  rfl
@[simp] theorem putA_product (s : State) (v : Byte) : (putA v s).product = s.product :=
  rfl

/-! ### putX -/

@[simp] theorem putX_a (s : State) (v : Byte) : (putX v s).a = s.a :=
  rfl
@[simp] theorem putX_x (s : State) (v : Byte) : (putX v s).x = v :=
  rfl
@[simp] theorem putX_y (s : State) (v : Byte) : (putX v s).y = s.y :=
  rfl
@[simp] theorem putX_sp (s : State) (v : Byte) : (putX v s).sp = s.sp :=
  rfl
@[simp] theorem putX_pc (s : State) (v : Byte) : (putX v s).pc = s.pc :=
  rfl
@[simp] theorem putX_ps (s : State) (v : Byte) : (putX v s).ps = s.ps :=
  rfl
@[simp] theorem putX_runState (s : State) (v : Byte) : (putX v s).runState = s.runState :=
  rfl
@[simp] theorem putX_lastWasPlp (s : State) (v : Byte) : (putX v s).lastWasPlp = s.lastWasPlp :=
  rfl
@[simp] theorem putX_lastWasDecimal (s : State) (v : Byte) : (putX v s).lastWasDecimal = s.lastWasDecimal :=
  rfl
@[simp] theorem putX_touched (s : State) (v : Byte) : (putX v s).touched = s.touched :=
  rfl
@[simp] theorem putX_stale (s : State) (v : Byte) : (putX v s).stale = s.stale :=
  rfl
@[simp] theorem putX_mem (s : State) (v : Byte) : (putX v s).mem = s.mem :=
  rfl
@[simp] theorem putX_inputs (s : State) (v : Byte) : (putX v s).inputs = s.inputs :=
  rfl
@[simp] theorem putX_draws (s : State) (v : Byte) : (putX v s).draws = s.draws :=
  rfl
@[simp] theorem putX_env (s : State) (v : Byte) : (putX v s).env = s.env :=
  rfl
@[simp] theorem putX_product (s : State) (v : Byte) : (putX v s).product = s.product :=
  rfl

/-! ### putY -/

@[simp] theorem putY_a (s : State) (v : Byte) : (putY v s).a = s.a :=
  rfl
@[simp] theorem putY_x (s : State) (v : Byte) : (putY v s).x = s.x :=
  rfl
@[simp] theorem putY_y (s : State) (v : Byte) : (putY v s).y = v :=
  rfl
@[simp] theorem putY_sp (s : State) (v : Byte) : (putY v s).sp = s.sp :=
  rfl
@[simp] theorem putY_pc (s : State) (v : Byte) : (putY v s).pc = s.pc :=
  rfl
@[simp] theorem putY_ps (s : State) (v : Byte) : (putY v s).ps = s.ps :=
  rfl
@[simp] theorem putY_runState (s : State) (v : Byte) : (putY v s).runState = s.runState :=
  rfl
@[simp] theorem putY_lastWasPlp (s : State) (v : Byte) : (putY v s).lastWasPlp = s.lastWasPlp :=
  rfl
@[simp] theorem putY_lastWasDecimal (s : State) (v : Byte) : (putY v s).lastWasDecimal = s.lastWasDecimal :=
  rfl
@[simp] theorem putY_touched (s : State) (v : Byte) : (putY v s).touched = s.touched :=
  rfl
@[simp] theorem putY_stale (s : State) (v : Byte) : (putY v s).stale = s.stale :=
  rfl
@[simp] theorem putY_mem (s : State) (v : Byte) : (putY v s).mem = s.mem :=
  rfl
@[simp] theorem putY_inputs (s : State) (v : Byte) : (putY v s).inputs = s.inputs :=
  rfl
@[simp] theorem putY_draws (s : State) (v : Byte) : (putY v s).draws = s.draws :=
  rfl
@[simp] theorem putY_env (s : State) (v : Byte) : (putY v s).env = s.env :=
  rfl
@[simp] theorem putY_product (s : State) (v : Byte) : (putY v s).product = s.product :=
  rfl

/-! ### putS -/

@[simp] theorem putS_a (s : State) (v : Byte) : (putS v s).a = s.a :=
  rfl
@[simp] theorem putS_x (s : State) (v : Byte) : (putS v s).x = s.x :=
  rfl
@[simp] theorem putS_y (s : State) (v : Byte) : (putS v s).y = s.y :=
  rfl
@[simp] theorem putS_sp (s : State) (v : Byte) : (putS v s).sp = v :=
  rfl
@[simp] theorem putS_pc (s : State) (v : Byte) : (putS v s).pc = s.pc :=
  rfl
@[simp] theorem putS_ps (s : State) (v : Byte) : (putS v s).ps = s.ps :=
  rfl
@[simp] theorem putS_runState (s : State) (v : Byte) : (putS v s).runState = s.runState :=
  rfl
@[simp] theorem putS_lastWasPlp (s : State) (v : Byte) : (putS v s).lastWasPlp = s.lastWasPlp :=
  rfl
@[simp] theorem putS_lastWasDecimal (s : State) (v : Byte) : (putS v s).lastWasDecimal = s.lastWasDecimal :=
  rfl
@[simp] theorem putS_touched (s : State) (v : Byte) : (putS v s).touched = s.touched :=
  rfl
@[simp] theorem putS_stale (s : State) (v : Byte) : (putS v s).stale = s.stale :=
  rfl
@[simp] theorem putS_mem (s : State) (v : Byte) : (putS v s).mem = s.mem :=
  rfl
@[simp] theorem putS_inputs (s : State) (v : Byte) : (putS v s).inputs = s.inputs :=
  rfl
@[simp] theorem putS_draws (s : State) (v : Byte) : (putS v s).draws = s.draws :=
  rfl
@[simp] theorem putS_env (s : State) (v : Byte) : (putS v s).env = s.env :=
  rfl
@[simp] theorem putS_product (s : State) (v : Byte) : (putS v s).product = s.product :=
  rfl

/-! ### putPs -/

@[simp] theorem putPs_a (s : State) (v : Byte) : (putPs v s).a = s.a :=
  rfl
@[simp] theorem putPs_x (s : State) (v : Byte) : (putPs v s).x = s.x :=
  rfl
@[simp] theorem putPs_y (s : State) (v : Byte) : (putPs v s).y = s.y :=
  rfl
@[simp] theorem putPs_sp (s : State) (v : Byte) : (putPs v s).sp = s.sp :=
  rfl
@[simp] theorem putPs_pc (s : State) (v : Byte) : (putPs v s).pc = s.pc :=
  rfl
@[simp] theorem putPs_ps (s : State) (v : Byte) : (putPs v s).ps = v :=
  rfl
@[simp] theorem putPs_runState (s : State) (v : Byte) : (putPs v s).runState = s.runState :=
  rfl
@[simp] theorem putPs_lastWasPlp (s : State) (v : Byte) : (putPs v s).lastWasPlp = s.lastWasPlp :=
  rfl
@[simp] theorem putPs_lastWasDecimal (s : State) (v : Byte) : (putPs v s).lastWasDecimal = s.lastWasDecimal :=
  rfl
@[simp] theorem putPs_touched (s : State) (v : Byte) : (putPs v s).touched = s.touched :=
  rfl
@[simp] theorem putPs_stale (s : State) (v : Byte) : (putPs v s).stale = s.stale :=
  rfl
@[simp] theorem putPs_mem (s : State) (v : Byte) : (putPs v s).mem = s.mem :=
  rfl
@[simp] theorem putPs_inputs (s : State) (v : Byte) : (putPs v s).inputs = s.inputs :=
  rfl
@[simp] theorem putPs_draws (s : State) (v : Byte) : (putPs v s).draws = s.draws :=
  rfl
@[simp] theorem putPs_env (s : State) (v : Byte) : (putPs v s).env = s.env :=
  rfl
@[simp] theorem putPs_product (s : State) (v : Byte) : (putPs v s).product = s.product :=
  rfl

/-! ### goto -/

@[simp] theorem goto_a (s : State) (v : Addr) : (s.goto v).a = s.a :=
  rfl
@[simp] theorem goto_x (s : State) (v : Addr) : (s.goto v).x = s.x :=
  rfl
@[simp] theorem goto_y (s : State) (v : Addr) : (s.goto v).y = s.y :=
  rfl
@[simp] theorem goto_sp (s : State) (v : Addr) : (s.goto v).sp = s.sp :=
  rfl
@[simp] theorem goto_pc (s : State) (v : Addr) : (s.goto v).pc = v :=
  rfl
@[simp] theorem goto_ps (s : State) (v : Addr) : (s.goto v).ps = s.ps :=
  rfl
@[simp] theorem goto_runState (s : State) (v : Addr) : (s.goto v).runState = s.runState :=
  rfl
@[simp] theorem goto_lastWasPlp (s : State) (v : Addr) : (s.goto v).lastWasPlp = s.lastWasPlp :=
  rfl
@[simp] theorem goto_lastWasDecimal (s : State) (v : Addr) : (s.goto v).lastWasDecimal = s.lastWasDecimal :=
  rfl
@[simp] theorem goto_touched (s : State) (v : Addr) : (s.goto v).touched = s.touched :=
  rfl
@[simp] theorem goto_stale (s : State) (v : Addr) : (s.goto v).stale = s.stale :=
  rfl
@[simp] theorem goto_mem (s : State) (v : Addr) : (s.goto v).mem = s.mem :=
  rfl
@[simp] theorem goto_inputs (s : State) (v : Addr) : (s.goto v).inputs = s.inputs :=
  rfl
@[simp] theorem goto_draws (s : State) (v : Addr) : (s.goto v).draws = s.draws :=
  rfl
@[simp] theorem goto_env (s : State) (v : Addr) : (s.goto v).env = s.env :=
  rfl
@[simp] theorem goto_product (s : State) (v : Addr) : (s.goto v).product = s.product :=
  rfl

/-! ### enter -/

@[simp] theorem enter_a (s : State) (r : RunState) : (s.enter r).a = s.a :=
  rfl
@[simp] theorem enter_x (s : State) (r : RunState) : (s.enter r).x = s.x :=
  rfl
@[simp] theorem enter_y (s : State) (r : RunState) : (s.enter r).y = s.y :=
  rfl
@[simp] theorem enter_sp (s : State) (r : RunState) : (s.enter r).sp = s.sp :=
  rfl
@[simp] theorem enter_pc (s : State) (r : RunState) : (s.enter r).pc = s.pc :=
  rfl
@[simp] theorem enter_ps (s : State) (r : RunState) : (s.enter r).ps = s.ps :=
  rfl
@[simp] theorem enter_runState (s : State) (r : RunState) : (s.enter r).runState = r :=
  rfl
@[simp] theorem enter_lastWasPlp (s : State) (r : RunState) : (s.enter r).lastWasPlp = s.lastWasPlp :=
  rfl
@[simp] theorem enter_lastWasDecimal (s : State) (r : RunState) : (s.enter r).lastWasDecimal = s.lastWasDecimal :=
  rfl
@[simp] theorem enter_touched (s : State) (r : RunState) : (s.enter r).touched = s.touched :=
  rfl
@[simp] theorem enter_stale (s : State) (r : RunState) : (s.enter r).stale = s.stale :=
  rfl
@[simp] theorem enter_mem (s : State) (r : RunState) : (s.enter r).mem = s.mem :=
  rfl
@[simp] theorem enter_inputs (s : State) (r : RunState) : (s.enter r).inputs = s.inputs :=
  rfl
@[simp] theorem enter_draws (s : State) (r : RunState) : (s.enter r).draws = s.draws :=
  rfl
@[simp] theorem enter_env (s : State) (r : RunState) : (s.enter r).env = s.env :=
  rfl
@[simp] theorem enter_product (s : State) (r : RunState) : (s.enter r).product = s.product :=
  rfl

/-! ### markPlp -/

@[simp] theorem markPlp_a (s : State) : s.markPlp.a = s.a :=
  rfl
@[simp] theorem markPlp_x (s : State) : s.markPlp.x = s.x :=
  rfl
@[simp] theorem markPlp_y (s : State) : s.markPlp.y = s.y :=
  rfl
@[simp] theorem markPlp_sp (s : State) : s.markPlp.sp = s.sp :=
  rfl
@[simp] theorem markPlp_pc (s : State) : s.markPlp.pc = s.pc :=
  rfl
@[simp] theorem markPlp_ps (s : State) : s.markPlp.ps = s.ps :=
  rfl
@[simp] theorem markPlp_runState (s : State) : s.markPlp.runState = s.runState :=
  rfl
@[simp] theorem markPlp_lastWasPlp (s : State) : s.markPlp.lastWasPlp = true :=
  rfl
@[simp] theorem markPlp_lastWasDecimal (s : State) : s.markPlp.lastWasDecimal = s.lastWasDecimal :=
  rfl
@[simp] theorem markPlp_touched (s : State) : s.markPlp.touched = s.touched :=
  rfl
@[simp] theorem markPlp_stale (s : State) : s.markPlp.stale = s.stale :=
  rfl
@[simp] theorem markPlp_mem (s : State) : s.markPlp.mem = s.mem :=
  rfl
@[simp] theorem markPlp_inputs (s : State) : s.markPlp.inputs = s.inputs :=
  rfl
@[simp] theorem markPlp_draws (s : State) : s.markPlp.draws = s.draws :=
  rfl
@[simp] theorem markPlp_env (s : State) : s.markPlp.env = s.env :=
  rfl
@[simp] theorem markPlp_product (s : State) : s.markPlp.product = s.product :=
  rfl

/-! ### markDecimal -/

@[simp] theorem markDecimal_a (s : State) (d : Bool) : (s.markDecimal d).a = s.a :=
  rfl
@[simp] theorem markDecimal_x (s : State) (d : Bool) : (s.markDecimal d).x = s.x :=
  rfl
@[simp] theorem markDecimal_y (s : State) (d : Bool) : (s.markDecimal d).y = s.y :=
  rfl
@[simp] theorem markDecimal_sp (s : State) (d : Bool) : (s.markDecimal d).sp = s.sp :=
  rfl
@[simp] theorem markDecimal_pc (s : State) (d : Bool) : (s.markDecimal d).pc = s.pc :=
  rfl
@[simp] theorem markDecimal_ps (s : State) (d : Bool) : (s.markDecimal d).ps = s.ps :=
  rfl
@[simp] theorem markDecimal_runState (s : State) (d : Bool) : (s.markDecimal d).runState = s.runState :=
  rfl
@[simp] theorem markDecimal_lastWasPlp (s : State) (d : Bool) : (s.markDecimal d).lastWasPlp = s.lastWasPlp :=
  rfl
@[simp] theorem markDecimal_lastWasDecimal (s : State) (d : Bool) : (s.markDecimal d).lastWasDecimal = d :=
  rfl
@[simp] theorem markDecimal_touched (s : State) (d : Bool) : (s.markDecimal d).touched = s.touched :=
  rfl
@[simp] theorem markDecimal_stale (s : State) (d : Bool) : (s.markDecimal d).stale = s.stale :=
  rfl
@[simp] theorem markDecimal_mem (s : State) (d : Bool) : (s.markDecimal d).mem = s.mem :=
  rfl
@[simp] theorem markDecimal_inputs (s : State) (d : Bool) : (s.markDecimal d).inputs = s.inputs :=
  rfl
@[simp] theorem markDecimal_draws (s : State) (d : Bool) : (s.markDecimal d).draws = s.draws :=
  rfl
@[simp] theorem markDecimal_env (s : State) (d : Bool) : (s.markDecimal d).env = s.env :=
  rfl
@[simp] theorem markDecimal_product (s : State) (d : Bool) : (s.markDecimal d).product = s.product :=
  rfl

/-! ### withEnv -/

@[simp] theorem withEnv_a (s : State) (l : List Turn) : (s.withEnv l).a = s.a :=
  rfl
@[simp] theorem withEnv_x (s : State) (l : List Turn) : (s.withEnv l).x = s.x :=
  rfl
@[simp] theorem withEnv_y (s : State) (l : List Turn) : (s.withEnv l).y = s.y :=
  rfl
@[simp] theorem withEnv_sp (s : State) (l : List Turn) : (s.withEnv l).sp = s.sp :=
  rfl
@[simp] theorem withEnv_pc (s : State) (l : List Turn) : (s.withEnv l).pc = s.pc :=
  rfl
@[simp] theorem withEnv_ps (s : State) (l : List Turn) : (s.withEnv l).ps = s.ps :=
  rfl
@[simp] theorem withEnv_runState (s : State) (l : List Turn) : (s.withEnv l).runState = s.runState :=
  rfl
@[simp] theorem withEnv_lastWasPlp (s : State) (l : List Turn) : (s.withEnv l).lastWasPlp = s.lastWasPlp :=
  rfl
@[simp] theorem withEnv_lastWasDecimal (s : State) (l : List Turn) : (s.withEnv l).lastWasDecimal = s.lastWasDecimal :=
  rfl
@[simp] theorem withEnv_touched (s : State) (l : List Turn) : (s.withEnv l).touched = s.touched :=
  rfl
@[simp] theorem withEnv_stale (s : State) (l : List Turn) : (s.withEnv l).stale = s.stale :=
  rfl
@[simp] theorem withEnv_mem (s : State) (l : List Turn) : (s.withEnv l).mem = s.mem :=
  rfl
@[simp] theorem withEnv_inputs (s : State) (l : List Turn) : (s.withEnv l).inputs = s.inputs :=
  rfl
@[simp] theorem withEnv_draws (s : State) (l : List Turn) : (s.withEnv l).draws = s.draws :=
  rfl
@[simp] theorem withEnv_env (s : State) (l : List Turn) : (s.withEnv l).env = l :=
  rfl
@[simp] theorem withEnv_product (s : State) (l : List Turn) : (s.withEnv l).product = s.product :=
  rfl

/-! ### clearRequest -/

@[simp] theorem clearRequest_a (s : State) (k : IrqSource) : (s.clearRequest k).a = s.a :=
  rfl
@[simp] theorem clearRequest_x (s : State) (k : IrqSource) : (s.clearRequest k).x = s.x :=
  rfl
@[simp] theorem clearRequest_y (s : State) (k : IrqSource) : (s.clearRequest k).y = s.y :=
  rfl
@[simp] theorem clearRequest_sp (s : State) (k : IrqSource) : (s.clearRequest k).sp = s.sp :=
  rfl
@[simp] theorem clearRequest_pc (s : State) (k : IrqSource) : (s.clearRequest k).pc = s.pc :=
  rfl
@[simp] theorem clearRequest_ps (s : State) (k : IrqSource) : (s.clearRequest k).ps = s.ps :=
  rfl
@[simp] theorem clearRequest_runState (s : State) (k : IrqSource) : (s.clearRequest k).runState = s.runState :=
  rfl
@[simp] theorem clearRequest_lastWasPlp (s : State) (k : IrqSource) : (s.clearRequest k).lastWasPlp = s.lastWasPlp :=
  rfl
@[simp] theorem clearRequest_lastWasDecimal (s : State) (k : IrqSource) : (s.clearRequest k).lastWasDecimal = s.lastWasDecimal :=
  rfl
@[simp] theorem clearRequest_touched (s : State) (k : IrqSource) : (s.clearRequest k).touched = s.touched :=
  rfl
@[simp] theorem clearRequest_stale (s : State) (k : IrqSource) : (s.clearRequest k).stale = s.stale :=
  rfl
@[simp] theorem clearRequest_inputs (s : State) (k : IrqSource) : (s.clearRequest k).inputs = s.inputs :=
  rfl
@[simp] theorem clearRequest_draws (s : State) (k : IrqSource) : (s.clearRequest k).draws = s.draws :=
  rfl
@[simp] theorem clearRequest_env (s : State) (k : IrqSource) : (s.clearRequest k).env = s.env :=
  rfl
@[simp] theorem clearRequest_product (s : State) (k : IrqSource) : (s.clearRequest k).product = s.product :=
  rfl

/-! ### raiseRequest -/

@[simp] theorem raiseRequest_a (s : State) (k : IrqSource) : (s.raiseRequest k).a = s.a :=
  rfl
@[simp] theorem raiseRequest_x (s : State) (k : IrqSource) : (s.raiseRequest k).x = s.x :=
  rfl
@[simp] theorem raiseRequest_y (s : State) (k : IrqSource) : (s.raiseRequest k).y = s.y :=
  rfl
@[simp] theorem raiseRequest_sp (s : State) (k : IrqSource) : (s.raiseRequest k).sp = s.sp :=
  rfl
@[simp] theorem raiseRequest_pc (s : State) (k : IrqSource) : (s.raiseRequest k).pc = s.pc :=
  rfl
@[simp] theorem raiseRequest_ps (s : State) (k : IrqSource) : (s.raiseRequest k).ps = s.ps :=
  rfl
@[simp] theorem raiseRequest_runState (s : State) (k : IrqSource) : (s.raiseRequest k).runState = s.runState :=
  rfl
@[simp] theorem raiseRequest_lastWasPlp (s : State) (k : IrqSource) : (s.raiseRequest k).lastWasPlp = s.lastWasPlp :=
  rfl
@[simp] theorem raiseRequest_lastWasDecimal (s : State) (k : IrqSource) : (s.raiseRequest k).lastWasDecimal = s.lastWasDecimal :=
  rfl
@[simp] theorem raiseRequest_touched (s : State) (k : IrqSource) : (s.raiseRequest k).touched = s.touched :=
  rfl
@[simp] theorem raiseRequest_stale (s : State) (k : IrqSource) : (s.raiseRequest k).stale = s.stale :=
  rfl
@[simp] theorem raiseRequest_inputs (s : State) (k : IrqSource) : (s.raiseRequest k).inputs = s.inputs :=
  rfl
@[simp] theorem raiseRequest_draws (s : State) (k : IrqSource) : (s.raiseRequest k).draws = s.draws :=
  rfl
@[simp] theorem raiseRequest_env (s : State) (k : IrqSource) : (s.raiseRequest k).env = s.env :=
  rfl
@[simp] theorem raiseRequest_product (s : State) (k : IrqSource) : (s.raiseRequest k).product = s.product :=
  rfl

/-! ### noteWrite -/

@[simp] theorem noteWrite_a (s : State) (w : WriteScope) (a : Addr) (b : Byte) : (s.noteWrite w a b).a = s.a :=
  rfl
@[simp] theorem noteWrite_x (s : State) (w : WriteScope) (a : Addr) (b : Byte) : (s.noteWrite w a b).x = s.x :=
  rfl
@[simp] theorem noteWrite_y (s : State) (w : WriteScope) (a : Addr) (b : Byte) : (s.noteWrite w a b).y = s.y :=
  rfl
@[simp] theorem noteWrite_sp (s : State) (w : WriteScope) (a : Addr) (b : Byte) : (s.noteWrite w a b).sp = s.sp :=
  rfl
@[simp] theorem noteWrite_pc (s : State) (w : WriteScope) (a : Addr) (b : Byte) : (s.noteWrite w a b).pc = s.pc :=
  rfl
@[simp] theorem noteWrite_ps (s : State) (w : WriteScope) (a : Addr) (b : Byte) : (s.noteWrite w a b).ps = s.ps :=
  rfl
@[simp] theorem noteWrite_runState (s : State) (w : WriteScope) (a : Addr) (b : Byte) : (s.noteWrite w a b).runState = s.runState :=
  rfl
@[simp] theorem noteWrite_lastWasPlp (s : State) (w : WriteScope) (a : Addr) (b : Byte) : (s.noteWrite w a b).lastWasPlp = s.lastWasPlp :=
  rfl
@[simp] theorem noteWrite_lastWasDecimal (s : State) (w : WriteScope) (a : Addr) (b : Byte) : (s.noteWrite w a b).lastWasDecimal = s.lastWasDecimal :=
  rfl
@[simp] theorem noteWrite_stale (s : State) (w : WriteScope) (a : Addr) (b : Byte) : (s.noteWrite w a b).stale = s.stale ++ staleBy s.product a b (s.cell a) :=
  rfl
@[simp] theorem noteWrite_mem (s : State) (w : WriteScope) (a : Addr) (b : Byte) : (s.noteWrite w a b).mem = s.mem :=
  rfl
@[simp] theorem noteWrite_inputs (s : State) (w : WriteScope) (a : Addr) (b : Byte) : (s.noteWrite w a b).inputs = s.inputs :=
  rfl
@[simp] theorem noteWrite_draws (s : State) (w : WriteScope) (a : Addr) (b : Byte) : (s.noteWrite w a b).draws = s.draws :=
  rfl
@[simp] theorem noteWrite_env (s : State) (w : WriteScope) (a : Addr) (b : Byte) : (s.noteWrite w a b).env = s.env :=
  rfl
@[simp] theorem noteWrite_product (s : State) (w : WriteScope) (a : Addr) (b : Byte) : (s.noteWrite w a b).product = s.product :=
  rfl

/-! ### tick -/

@[simp] theorem tick_a (s : State) : s.tick.a = s.a :=
  rfl
@[simp] theorem tick_x (s : State) : s.tick.x = s.x :=
  rfl
@[simp] theorem tick_y (s : State) : s.tick.y = s.y :=
  rfl
@[simp] theorem tick_sp (s : State) : s.tick.sp = s.sp :=
  rfl
@[simp] theorem tick_pc (s : State) : s.tick.pc = s.pc :=
  rfl
@[simp] theorem tick_ps (s : State) : s.tick.ps = s.ps :=
  rfl
@[simp] theorem tick_runState (s : State) : s.tick.runState = s.runState :=
  rfl
@[simp] theorem tick_lastWasPlp (s : State) : s.tick.lastWasPlp = s.lastWasPlp :=
  rfl
@[simp] theorem tick_lastWasDecimal (s : State) : s.tick.lastWasDecimal = s.lastWasDecimal :=
  rfl
@[simp] theorem tick_touched (s : State) : s.tick.touched = s.touched :=
  rfl
@[simp] theorem tick_stale (s : State) : s.tick.stale = s.stale :=
  rfl
@[simp] theorem tick_mem (s : State) : s.tick.mem = s.mem :=
  rfl
@[simp] theorem tick_inputs (s : State) : s.tick.inputs = s.inputs :=
  rfl
@[simp] theorem tick_draws (s : State) : s.tick.draws = s.draws + 1 :=
  rfl
@[simp] theorem tick_env (s : State) : s.tick.env = s.env :=
  rfl
@[simp] theorem tick_product (s : State) : s.tick.product = s.product :=
  rfl

/-! ### Views of a state -/

@[simp] theorem clearShadows_kind (s : State) (c₀ : Addr) : s.clearShadows.kind c₀ = s.kind c₀ :=
  rfl
@[simp] theorem clearShadows_mapped (s : State) (c₀ : Addr) : s.clearShadows.mapped c₀ = s.mapped c₀ :=
  rfl
@[simp] theorem clearShadows_stackAddr (s : State) (c₀ : Byte) : s.clearShadows.stackAddr c₀ = s.stackAddr c₀ :=
  rfl
@[simp] theorem clearShadows_mx (s : State) : s.clearShadows.mx = s.mx :=
  rfl
@[simp] theorem clearShadows_cell (s : State) (c₀ : Addr) : s.clearShadows.cell c₀ = s.cell c₀ :=
  rfl
@[simp] theorem clearShadows_input (s : State) (c₀ : Addr) : s.clearShadows.input c₀ = s.input c₀ :=
  rfl
@[simp] theorem clearShadows_byteAt (s : State) (k₀ : Access) (c₀ : Addr) : s.clearShadows.byteAt k₀ c₀ = s.byteAt k₀ c₀ :=
  rfl
@[simp] theorem clearShadows_flag (s : State) (c₀ : Flag) : s.clearShadows.flag c₀ = s.flag c₀ :=
  rfl
@[simp] theorem clearShadows_nextPc (s : State) (c₀ : Nat) : s.clearShadows.nextPc c₀ = s.nextPc c₀ :=
  rfl

@[simp] theorem begin_kind (s : State) (n : Nat) (c₀ : Addr) : (s.begin n).kind c₀ = s.kind c₀ :=
  rfl
@[simp] theorem begin_mapped (s : State) (n : Nat) (c₀ : Addr) : (s.begin n).mapped c₀ = s.mapped c₀ :=
  rfl
@[simp] theorem begin_stackAddr (s : State) (n : Nat) (c₀ : Byte) : (s.begin n).stackAddr c₀ = s.stackAddr c₀ :=
  rfl
@[simp] theorem begin_mx (s : State) (n : Nat) : (s.begin n).mx = s.mx :=
  rfl
@[simp] theorem begin_cell (s : State) (n : Nat) (c₀ : Addr) : (s.begin n).cell c₀ = s.cell c₀ :=
  rfl
@[simp] theorem begin_input (s : State) (n : Nat) (c₀ : Addr) : (s.begin n).input c₀ = s.input c₀ :=
  rfl
@[simp] theorem begin_byteAt (s : State) (n : Nat) (k₀ : Access) (c₀ : Addr) : (s.begin n).byteAt k₀ c₀ = s.byteAt k₀ c₀ :=
  rfl
@[simp] theorem begin_flag (s : State) (n : Nat) (c₀ : Flag) : (s.begin n).flag c₀ = s.flag c₀ :=
  rfl

@[simp] theorem setFlag_kind (s : State) (f : Flag) (v : Bool) (c₀ : Addr) : (s.setFlag f v).kind c₀ = s.kind c₀ :=
  rfl
@[simp] theorem setFlag_mapped (s : State) (f : Flag) (v : Bool) (c₀ : Addr) : (s.setFlag f v).mapped c₀ = s.mapped c₀ :=
  rfl
@[simp] theorem setFlag_stackAddr (s : State) (f : Flag) (v : Bool) (c₀ : Byte) : (s.setFlag f v).stackAddr c₀ = s.stackAddr c₀ :=
  rfl
@[simp] theorem setFlag_mx (s : State) (f : Flag) (v : Bool) : (s.setFlag f v).mx = s.mx :=
  rfl
@[simp] theorem setFlag_cell (s : State) (f : Flag) (v : Bool) (c₀ : Addr) : (s.setFlag f v).cell c₀ = s.cell c₀ :=
  rfl
@[simp] theorem setFlag_input (s : State) (f : Flag) (v : Bool) (c₀ : Addr) : (s.setFlag f v).input c₀ = s.input c₀ :=
  rfl
@[simp] theorem setFlag_byteAt (s : State) (f : Flag) (v : Bool) (k₀ : Access) (c₀ : Addr) : (s.setFlag f v).byteAt k₀ c₀ = s.byteAt k₀ c₀ :=
  rfl
@[simp] theorem setFlag_nextPc (s : State) (f : Flag) (v : Bool) (c₀ : Nat) : (s.setFlag f v).nextPc c₀ = s.nextPc c₀ :=
  rfl

@[simp] theorem setNZ_kind (s : State) (v : Byte) (c₀ : Addr) : (s.setNZ v).kind c₀ = s.kind c₀ :=
  by simp only [State.setNZ, setFlag_kind]
@[simp] theorem setNZ_mapped (s : State) (v : Byte) (c₀ : Addr) : (s.setNZ v).mapped c₀ = s.mapped c₀ :=
  by simp only [State.setNZ, setFlag_mapped]
@[simp] theorem setNZ_stackAddr (s : State) (v : Byte) (c₀ : Byte) : (s.setNZ v).stackAddr c₀ = s.stackAddr c₀ :=
  by simp only [State.setNZ, setFlag_stackAddr]
@[simp] theorem setNZ_mx (s : State) (v : Byte) : (s.setNZ v).mx = s.mx :=
  by simp only [State.setNZ, setFlag_mx]
@[simp] theorem setNZ_cell (s : State) (v : Byte) (c₀ : Addr) : (s.setNZ v).cell c₀ = s.cell c₀ :=
  by simp only [State.setNZ, setFlag_cell]
@[simp] theorem setNZ_input (s : State) (v : Byte) (c₀ : Addr) : (s.setNZ v).input c₀ = s.input c₀ :=
  by simp only [State.setNZ, setFlag_input]
@[simp] theorem setNZ_byteAt (s : State) (v : Byte) (k₀ : Access) (c₀ : Addr) : (s.setNZ v).byteAt k₀ c₀ = s.byteAt k₀ c₀ :=
  by simp only [State.setNZ, setFlag_byteAt]
@[simp] theorem setNZ_nextPc (s : State) (v : Byte) (c₀ : Nat) : (s.setNZ v).nextPc c₀ = s.nextPc c₀ :=
  by simp only [State.setNZ, setFlag_nextPc]

@[simp] theorem setCompare_kind (s : State) (a m : Byte) (c₀ : Addr) : (s.setCompare a m).kind c₀ = s.kind c₀ :=
  by simp only [State.setCompare, setNZ_kind, setFlag_kind]
@[simp] theorem setCompare_mapped (s : State) (a m : Byte) (c₀ : Addr) : (s.setCompare a m).mapped c₀ = s.mapped c₀ :=
  by simp only [State.setCompare, setNZ_mapped, setFlag_mapped]
@[simp] theorem setCompare_stackAddr (s : State) (a m : Byte) (c₀ : Byte) : (s.setCompare a m).stackAddr c₀ = s.stackAddr c₀ :=
  by simp only [State.setCompare, setNZ_stackAddr, setFlag_stackAddr]
@[simp] theorem setCompare_mx (s : State) (a m : Byte) : (s.setCompare a m).mx = s.mx :=
  by simp only [State.setCompare, setNZ_mx, setFlag_mx]
@[simp] theorem setCompare_cell (s : State) (a m : Byte) (c₀ : Addr) : (s.setCompare a m).cell c₀ = s.cell c₀ :=
  by simp only [State.setCompare, setNZ_cell, setFlag_cell]
@[simp] theorem setCompare_input (s : State) (a m : Byte) (c₀ : Addr) : (s.setCompare a m).input c₀ = s.input c₀ :=
  by simp only [State.setCompare, setNZ_input, setFlag_input]
@[simp] theorem setCompare_byteAt (s : State) (a m : Byte) (k₀ : Access) (c₀ : Addr) : (s.setCompare a m).byteAt k₀ c₀ = s.byteAt k₀ c₀ :=
  by simp only [State.setCompare, setNZ_byteAt, setFlag_byteAt]
@[simp] theorem setCompare_nextPc (s : State) (a m : Byte) (c₀ : Nat) : (s.setCompare a m).nextPc c₀ = s.nextPc c₀ :=
  by simp only [State.setCompare, setNZ_nextPc, setFlag_nextPc]

@[simp] theorem setBitTest_kind (s : State) (a m : Byte) (c₀ : Addr) : (s.setBitTest a m).kind c₀ = s.kind c₀ :=
  by simp only [State.setBitTest, setFlag_kind]
@[simp] theorem setBitTest_mapped (s : State) (a m : Byte) (c₀ : Addr) : (s.setBitTest a m).mapped c₀ = s.mapped c₀ :=
  by simp only [State.setBitTest, setFlag_mapped]
@[simp] theorem setBitTest_stackAddr (s : State) (a m : Byte) (c₀ : Byte) : (s.setBitTest a m).stackAddr c₀ = s.stackAddr c₀ :=
  by simp only [State.setBitTest, setFlag_stackAddr]
@[simp] theorem setBitTest_mx (s : State) (a m : Byte) : (s.setBitTest a m).mx = s.mx :=
  by simp only [State.setBitTest, setFlag_mx]
@[simp] theorem setBitTest_cell (s : State) (a m : Byte) (c₀ : Addr) : (s.setBitTest a m).cell c₀ = s.cell c₀ :=
  by simp only [State.setBitTest, setFlag_cell]
@[simp] theorem setBitTest_input (s : State) (a m : Byte) (c₀ : Addr) : (s.setBitTest a m).input c₀ = s.input c₀ :=
  by simp only [State.setBitTest, setFlag_input]
@[simp] theorem setBitTest_byteAt (s : State) (a m : Byte) (k₀ : Access) (c₀ : Addr) : (s.setBitTest a m).byteAt k₀ c₀ = s.byteAt k₀ c₀ :=
  by simp only [State.setBitTest, setFlag_byteAt]
@[simp] theorem setBitTest_nextPc (s : State) (a m : Byte) (c₀ : Nat) : (s.setBitTest a m).nextPc c₀ = s.nextPc c₀ :=
  by simp only [State.setBitTest, setFlag_nextPc]

@[simp] theorem setShift_kind (s : State) (o : Shifted) (c₀ : Addr) : (s.setShift o).kind c₀ = s.kind c₀ :=
  by simp only [State.setShift, setNZ_kind, setFlag_kind]
@[simp] theorem setShift_mapped (s : State) (o : Shifted) (c₀ : Addr) : (s.setShift o).mapped c₀ = s.mapped c₀ :=
  by simp only [State.setShift, setNZ_mapped, setFlag_mapped]
@[simp] theorem setShift_stackAddr (s : State) (o : Shifted) (c₀ : Byte) : (s.setShift o).stackAddr c₀ = s.stackAddr c₀ :=
  by simp only [State.setShift, setNZ_stackAddr, setFlag_stackAddr]
@[simp] theorem setShift_mx (s : State) (o : Shifted) : (s.setShift o).mx = s.mx :=
  by simp only [State.setShift, setNZ_mx, setFlag_mx]
@[simp] theorem setShift_cell (s : State) (o : Shifted) (c₀ : Addr) : (s.setShift o).cell c₀ = s.cell c₀ :=
  by simp only [State.setShift, setNZ_cell, setFlag_cell]
@[simp] theorem setShift_input (s : State) (o : Shifted) (c₀ : Addr) : (s.setShift o).input c₀ = s.input c₀ :=
  by simp only [State.setShift, setNZ_input, setFlag_input]
@[simp] theorem setShift_byteAt (s : State) (o : Shifted) (k₀ : Access) (c₀ : Addr) : (s.setShift o).byteAt k₀ c₀ = s.byteAt k₀ c₀ :=
  by simp only [State.setShift, setNZ_byteAt, setFlag_byteAt]
@[simp] theorem setShift_nextPc (s : State) (o : Shifted) (c₀ : Nat) : (s.setShift o).nextPc c₀ = s.nextPc c₀ :=
  by simp only [State.setShift, setNZ_nextPc, setFlag_nextPc]

@[simp] theorem setArith_kind (s : State) (o : Arith) (c₀ : Addr) : (s.setArith o).kind c₀ = s.kind c₀ :=
  by simp only [State.setArith, setFlag_kind]
@[simp] theorem setArith_mapped (s : State) (o : Arith) (c₀ : Addr) : (s.setArith o).mapped c₀ = s.mapped c₀ :=
  by simp only [State.setArith, setFlag_mapped]
@[simp] theorem setArith_stackAddr (s : State) (o : Arith) (c₀ : Byte) : (s.setArith o).stackAddr c₀ = s.stackAddr c₀ :=
  by simp only [State.setArith, setFlag_stackAddr]
@[simp] theorem setArith_mx (s : State) (o : Arith) : (s.setArith o).mx = s.mx :=
  by simp only [State.setArith, setFlag_mx]
@[simp] theorem setArith_cell (s : State) (o : Arith) (c₀ : Addr) : (s.setArith o).cell c₀ = s.cell c₀ :=
  by simp only [State.setArith, setFlag_cell]
@[simp] theorem setArith_input (s : State) (o : Arith) (c₀ : Addr) : (s.setArith o).input c₀ = s.input c₀ :=
  by simp only [State.setArith, setFlag_input]
@[simp] theorem setArith_byteAt (s : State) (o : Arith) (k₀ : Access) (c₀ : Addr) : (s.setArith o).byteAt k₀ c₀ = s.byteAt k₀ c₀ :=
  by simp only [State.setArith, setFlag_byteAt]
@[simp] theorem setArith_nextPc (s : State) (o : Arith) (c₀ : Nat) : (s.setArith o).nextPc c₀ = s.nextPc c₀ :=
  by simp only [State.setArith, setFlag_nextPc]

@[simp] theorem setCell_kind (s : State) (a : Addr) (v : Byte) (c₀ : Addr) : (s.setCell a v).kind c₀ = s.kind c₀ :=
  rfl
@[simp] theorem setCell_mapped (s : State) (a : Addr) (v : Byte) (c₀ : Addr) : (s.setCell a v).mapped c₀ = s.mapped c₀ :=
  rfl
@[simp] theorem setCell_stackAddr (s : State) (a : Addr) (v : Byte) (c₀ : Byte) : (s.setCell a v).stackAddr c₀ = s.stackAddr c₀ :=
  rfl
@[simp] theorem setCell_mx (s : State) (a : Addr) (v : Byte) : (s.setCell a v).mx = s.mx :=
  rfl
@[simp] theorem setCell_input (s : State) (a : Addr) (v : Byte) (c₀ : Addr) : (s.setCell a v).input c₀ = s.input c₀ :=
  rfl
@[simp] theorem setCell_flag (s : State) (a : Addr) (v : Byte) (c₀ : Flag) : (s.setCell a v).flag c₀ = s.flag c₀ :=
  rfl
@[simp] theorem setCell_nextPc (s : State) (a : Addr) (v : Byte) (c₀ : Nat) : (s.setCell a v).nextPc c₀ = s.nextPc c₀ :=
  rfl

@[simp] theorem setInput_kind (s : State) (a : Addr) (v : Byte) (c₀ : Addr) : (s.setInput a v).kind c₀ = s.kind c₀ :=
  rfl
@[simp] theorem setInput_mapped (s : State) (a : Addr) (v : Byte) (c₀ : Addr) : (s.setInput a v).mapped c₀ = s.mapped c₀ :=
  rfl
@[simp] theorem setInput_stackAddr (s : State) (a : Addr) (v : Byte) (c₀ : Byte) : (s.setInput a v).stackAddr c₀ = s.stackAddr c₀ :=
  rfl
@[simp] theorem setInput_mx (s : State) (a : Addr) (v : Byte) : (s.setInput a v).mx = s.mx :=
  rfl
@[simp] theorem setInput_cell (s : State) (a : Addr) (v : Byte) (c₀ : Addr) : (s.setInput a v).cell c₀ = s.cell c₀ :=
  rfl
@[simp] theorem setInput_flag (s : State) (a : Addr) (v : Byte) (c₀ : Flag) : (s.setInput a v).flag c₀ = s.flag c₀ :=
  rfl
@[simp] theorem setInput_nextPc (s : State) (a : Addr) (v : Byte) (c₀ : Nat) : (s.setInput a v).nextPc c₀ = s.nextPc c₀ :=
  rfl

@[simp] theorem putA_kind (s : State) (v : Byte) (c₀ : Addr) : (putA v s).kind c₀ = s.kind c₀ :=
  rfl
@[simp] theorem putA_mapped (s : State) (v : Byte) (c₀ : Addr) : (putA v s).mapped c₀ = s.mapped c₀ :=
  rfl
@[simp] theorem putA_stackAddr (s : State) (v : Byte) (c₀ : Byte) : (putA v s).stackAddr c₀ = s.stackAddr c₀ :=
  rfl
@[simp] theorem putA_mx (s : State) (v : Byte) : (putA v s).mx = s.mx :=
  rfl
@[simp] theorem putA_cell (s : State) (v : Byte) (c₀ : Addr) : (putA v s).cell c₀ = s.cell c₀ :=
  rfl
@[simp] theorem putA_input (s : State) (v : Byte) (c₀ : Addr) : (putA v s).input c₀ = s.input c₀ :=
  rfl
@[simp] theorem putA_byteAt (s : State) (v : Byte) (k₀ : Access) (c₀ : Addr) : (putA v s).byteAt k₀ c₀ = s.byteAt k₀ c₀ :=
  rfl
@[simp] theorem putA_flag (s : State) (v : Byte) (c₀ : Flag) : (putA v s).flag c₀ = s.flag c₀ :=
  rfl
@[simp] theorem putA_nextPc (s : State) (v : Byte) (c₀ : Nat) : (putA v s).nextPc c₀ = s.nextPc c₀ :=
  rfl

@[simp] theorem putX_kind (s : State) (v : Byte) (c₀ : Addr) : (putX v s).kind c₀ = s.kind c₀ :=
  rfl
@[simp] theorem putX_mapped (s : State) (v : Byte) (c₀ : Addr) : (putX v s).mapped c₀ = s.mapped c₀ :=
  rfl
@[simp] theorem putX_stackAddr (s : State) (v : Byte) (c₀ : Byte) : (putX v s).stackAddr c₀ = s.stackAddr c₀ :=
  rfl
@[simp] theorem putX_cell (s : State) (v : Byte) (c₀ : Addr) : (putX v s).cell c₀ = s.cell c₀ :=
  rfl
@[simp] theorem putX_input (s : State) (v : Byte) (c₀ : Addr) : (putX v s).input c₀ = s.input c₀ :=
  rfl
@[simp] theorem putX_byteAt (s : State) (v : Byte) (k₀ : Access) (c₀ : Addr) : (putX v s).byteAt k₀ c₀ = s.byteAt k₀ c₀ :=
  rfl
@[simp] theorem putX_flag (s : State) (v : Byte) (c₀ : Flag) : (putX v s).flag c₀ = s.flag c₀ :=
  rfl
@[simp] theorem putX_nextPc (s : State) (v : Byte) (c₀ : Nat) : (putX v s).nextPc c₀ = s.nextPc c₀ :=
  rfl

@[simp] theorem putY_kind (s : State) (v : Byte) (c₀ : Addr) : (putY v s).kind c₀ = s.kind c₀ :=
  rfl
@[simp] theorem putY_mapped (s : State) (v : Byte) (c₀ : Addr) : (putY v s).mapped c₀ = s.mapped c₀ :=
  rfl
@[simp] theorem putY_stackAddr (s : State) (v : Byte) (c₀ : Byte) : (putY v s).stackAddr c₀ = s.stackAddr c₀ :=
  rfl
@[simp] theorem putY_mx (s : State) (v : Byte) : (putY v s).mx = s.mx :=
  rfl
@[simp] theorem putY_cell (s : State) (v : Byte) (c₀ : Addr) : (putY v s).cell c₀ = s.cell c₀ :=
  rfl
@[simp] theorem putY_input (s : State) (v : Byte) (c₀ : Addr) : (putY v s).input c₀ = s.input c₀ :=
  rfl
@[simp] theorem putY_byteAt (s : State) (v : Byte) (k₀ : Access) (c₀ : Addr) : (putY v s).byteAt k₀ c₀ = s.byteAt k₀ c₀ :=
  rfl
@[simp] theorem putY_flag (s : State) (v : Byte) (c₀ : Flag) : (putY v s).flag c₀ = s.flag c₀ :=
  rfl
@[simp] theorem putY_nextPc (s : State) (v : Byte) (c₀ : Nat) : (putY v s).nextPc c₀ = s.nextPc c₀ :=
  rfl

@[simp] theorem putS_kind (s : State) (v : Byte) (c₀ : Addr) : (putS v s).kind c₀ = s.kind c₀ :=
  rfl
@[simp] theorem putS_mapped (s : State) (v : Byte) (c₀ : Addr) : (putS v s).mapped c₀ = s.mapped c₀ :=
  rfl
@[simp] theorem putS_stackAddr (s : State) (v : Byte) (c₀ : Byte) : (putS v s).stackAddr c₀ = s.stackAddr c₀ :=
  rfl
@[simp] theorem putS_mx (s : State) (v : Byte) : (putS v s).mx = s.mx :=
  rfl
@[simp] theorem putS_cell (s : State) (v : Byte) (c₀ : Addr) : (putS v s).cell c₀ = s.cell c₀ :=
  rfl
@[simp] theorem putS_input (s : State) (v : Byte) (c₀ : Addr) : (putS v s).input c₀ = s.input c₀ :=
  rfl
@[simp] theorem putS_byteAt (s : State) (v : Byte) (k₀ : Access) (c₀ : Addr) : (putS v s).byteAt k₀ c₀ = s.byteAt k₀ c₀ :=
  rfl
@[simp] theorem putS_flag (s : State) (v : Byte) (c₀ : Flag) : (putS v s).flag c₀ = s.flag c₀ :=
  rfl
@[simp] theorem putS_nextPc (s : State) (v : Byte) (c₀ : Nat) : (putS v s).nextPc c₀ = s.nextPc c₀ :=
  rfl

@[simp] theorem putPs_kind (s : State) (v : Byte) (c₀ : Addr) : (putPs v s).kind c₀ = s.kind c₀ :=
  rfl
@[simp] theorem putPs_mapped (s : State) (v : Byte) (c₀ : Addr) : (putPs v s).mapped c₀ = s.mapped c₀ :=
  rfl
@[simp] theorem putPs_stackAddr (s : State) (v : Byte) (c₀ : Byte) : (putPs v s).stackAddr c₀ = s.stackAddr c₀ :=
  rfl
@[simp] theorem putPs_mx (s : State) (v : Byte) : (putPs v s).mx = s.mx :=
  rfl
@[simp] theorem putPs_cell (s : State) (v : Byte) (c₀ : Addr) : (putPs v s).cell c₀ = s.cell c₀ :=
  rfl
@[simp] theorem putPs_input (s : State) (v : Byte) (c₀ : Addr) : (putPs v s).input c₀ = s.input c₀ :=
  rfl
@[simp] theorem putPs_byteAt (s : State) (v : Byte) (k₀ : Access) (c₀ : Addr) : (putPs v s).byteAt k₀ c₀ = s.byteAt k₀ c₀ :=
  rfl
@[simp] theorem putPs_nextPc (s : State) (v : Byte) (c₀ : Nat) : (putPs v s).nextPc c₀ = s.nextPc c₀ :=
  rfl

@[simp] theorem goto_kind (s : State) (v : Addr) (c₀ : Addr) : (s.goto v).kind c₀ = s.kind c₀ :=
  rfl
@[simp] theorem goto_mapped (s : State) (v : Addr) (c₀ : Addr) : (s.goto v).mapped c₀ = s.mapped c₀ :=
  rfl
@[simp] theorem goto_stackAddr (s : State) (v : Addr) (c₀ : Byte) : (s.goto v).stackAddr c₀ = s.stackAddr c₀ :=
  rfl
@[simp] theorem goto_mx (s : State) (v : Addr) : (s.goto v).mx = s.mx :=
  rfl
@[simp] theorem goto_cell (s : State) (v : Addr) (c₀ : Addr) : (s.goto v).cell c₀ = s.cell c₀ :=
  rfl
@[simp] theorem goto_input (s : State) (v : Addr) (c₀ : Addr) : (s.goto v).input c₀ = s.input c₀ :=
  rfl
@[simp] theorem goto_byteAt (s : State) (v : Addr) (k₀ : Access) (c₀ : Addr) : (s.goto v).byteAt k₀ c₀ = s.byteAt k₀ c₀ :=
  rfl
@[simp] theorem goto_flag (s : State) (v : Addr) (c₀ : Flag) : (s.goto v).flag c₀ = s.flag c₀ :=
  rfl

@[simp] theorem enter_kind (s : State) (r : RunState) (c₀ : Addr) : (s.enter r).kind c₀ = s.kind c₀ :=
  rfl
@[simp] theorem enter_mapped (s : State) (r : RunState) (c₀ : Addr) : (s.enter r).mapped c₀ = s.mapped c₀ :=
  rfl
@[simp] theorem enter_stackAddr (s : State) (r : RunState) (c₀ : Byte) : (s.enter r).stackAddr c₀ = s.stackAddr c₀ :=
  rfl
@[simp] theorem enter_mx (s : State) (r : RunState) : (s.enter r).mx = s.mx :=
  rfl
@[simp] theorem enter_cell (s : State) (r : RunState) (c₀ : Addr) : (s.enter r).cell c₀ = s.cell c₀ :=
  rfl
@[simp] theorem enter_input (s : State) (r : RunState) (c₀ : Addr) : (s.enter r).input c₀ = s.input c₀ :=
  rfl
@[simp] theorem enter_byteAt (s : State) (r : RunState) (k₀ : Access) (c₀ : Addr) : (s.enter r).byteAt k₀ c₀ = s.byteAt k₀ c₀ :=
  rfl
@[simp] theorem enter_flag (s : State) (r : RunState) (c₀ : Flag) : (s.enter r).flag c₀ = s.flag c₀ :=
  rfl
@[simp] theorem enter_nextPc (s : State) (r : RunState) (c₀ : Nat) : (s.enter r).nextPc c₀ = s.nextPc c₀ :=
  rfl

@[simp] theorem markPlp_kind (s : State) (c₀ : Addr) : s.markPlp.kind c₀ = s.kind c₀ :=
  rfl
@[simp] theorem markPlp_mapped (s : State) (c₀ : Addr) : s.markPlp.mapped c₀ = s.mapped c₀ :=
  rfl
@[simp] theorem markPlp_stackAddr (s : State) (c₀ : Byte) : s.markPlp.stackAddr c₀ = s.stackAddr c₀ :=
  rfl
@[simp] theorem markPlp_mx (s : State) : s.markPlp.mx = s.mx :=
  rfl
@[simp] theorem markPlp_cell (s : State) (c₀ : Addr) : s.markPlp.cell c₀ = s.cell c₀ :=
  rfl
@[simp] theorem markPlp_input (s : State) (c₀ : Addr) : s.markPlp.input c₀ = s.input c₀ :=
  rfl
@[simp] theorem markPlp_byteAt (s : State) (k₀ : Access) (c₀ : Addr) : s.markPlp.byteAt k₀ c₀ = s.byteAt k₀ c₀ :=
  rfl
@[simp] theorem markPlp_flag (s : State) (c₀ : Flag) : s.markPlp.flag c₀ = s.flag c₀ :=
  rfl
@[simp] theorem markPlp_nextPc (s : State) (c₀ : Nat) : s.markPlp.nextPc c₀ = s.nextPc c₀ :=
  rfl

@[simp] theorem markDecimal_kind (s : State) (d : Bool) (c₀ : Addr) : (s.markDecimal d).kind c₀ = s.kind c₀ :=
  rfl
@[simp] theorem markDecimal_mapped (s : State) (d : Bool) (c₀ : Addr) : (s.markDecimal d).mapped c₀ = s.mapped c₀ :=
  rfl
@[simp] theorem markDecimal_stackAddr (s : State) (d : Bool) (c₀ : Byte) : (s.markDecimal d).stackAddr c₀ = s.stackAddr c₀ :=
  rfl
@[simp] theorem markDecimal_mx (s : State) (d : Bool) : (s.markDecimal d).mx = s.mx :=
  rfl
@[simp] theorem markDecimal_cell (s : State) (d : Bool) (c₀ : Addr) : (s.markDecimal d).cell c₀ = s.cell c₀ :=
  rfl
@[simp] theorem markDecimal_input (s : State) (d : Bool) (c₀ : Addr) : (s.markDecimal d).input c₀ = s.input c₀ :=
  rfl
@[simp] theorem markDecimal_byteAt (s : State) (d : Bool) (k₀ : Access) (c₀ : Addr) : (s.markDecimal d).byteAt k₀ c₀ = s.byteAt k₀ c₀ :=
  rfl
@[simp] theorem markDecimal_flag (s : State) (d : Bool) (c₀ : Flag) : (s.markDecimal d).flag c₀ = s.flag c₀ :=
  rfl
@[simp] theorem markDecimal_nextPc (s : State) (d : Bool) (c₀ : Nat) : (s.markDecimal d).nextPc c₀ = s.nextPc c₀ :=
  rfl

@[simp] theorem withEnv_kind (s : State) (l : List Turn) (c₀ : Addr) : (s.withEnv l).kind c₀ = s.kind c₀ :=
  rfl
@[simp] theorem withEnv_mapped (s : State) (l : List Turn) (c₀ : Addr) : (s.withEnv l).mapped c₀ = s.mapped c₀ :=
  rfl
@[simp] theorem withEnv_stackAddr (s : State) (l : List Turn) (c₀ : Byte) : (s.withEnv l).stackAddr c₀ = s.stackAddr c₀ :=
  rfl
@[simp] theorem withEnv_mx (s : State) (l : List Turn) : (s.withEnv l).mx = s.mx :=
  rfl
@[simp] theorem withEnv_cell (s : State) (l : List Turn) (c₀ : Addr) : (s.withEnv l).cell c₀ = s.cell c₀ :=
  rfl
@[simp] theorem withEnv_input (s : State) (l : List Turn) (c₀ : Addr) : (s.withEnv l).input c₀ = s.input c₀ :=
  rfl
@[simp] theorem withEnv_byteAt (s : State) (l : List Turn) (k₀ : Access) (c₀ : Addr) : (s.withEnv l).byteAt k₀ c₀ = s.byteAt k₀ c₀ :=
  rfl
@[simp] theorem withEnv_flag (s : State) (l : List Turn) (c₀ : Flag) : (s.withEnv l).flag c₀ = s.flag c₀ :=
  rfl
@[simp] theorem withEnv_nextPc (s : State) (l : List Turn) (c₀ : Nat) : (s.withEnv l).nextPc c₀ = s.nextPc c₀ :=
  rfl

@[simp] theorem clearRequest_kind (s : State) (k : IrqSource) (c₀ : Addr) : (s.clearRequest k).kind c₀ = s.kind c₀ :=
  rfl
@[simp] theorem clearRequest_mapped (s : State) (k : IrqSource) (c₀ : Addr) : (s.clearRequest k).mapped c₀ = s.mapped c₀ :=
  rfl
@[simp] theorem clearRequest_stackAddr (s : State) (k : IrqSource) (c₀ : Byte) : (s.clearRequest k).stackAddr c₀ = s.stackAddr c₀ :=
  rfl
@[simp] theorem clearRequest_mx (s : State) (k : IrqSource) : (s.clearRequest k).mx = s.mx :=
  rfl
@[simp] theorem clearRequest_input (s : State) (k : IrqSource) (c₀ : Addr) : (s.clearRequest k).input c₀ = s.input c₀ :=
  rfl
@[simp] theorem clearRequest_flag (s : State) (k : IrqSource) (c₀ : Flag) : (s.clearRequest k).flag c₀ = s.flag c₀ :=
  rfl
@[simp] theorem clearRequest_nextPc (s : State) (k : IrqSource) (c₀ : Nat) : (s.clearRequest k).nextPc c₀ = s.nextPc c₀ :=
  rfl

@[simp] theorem raiseRequest_kind (s : State) (k : IrqSource) (c₀ : Addr) : (s.raiseRequest k).kind c₀ = s.kind c₀ :=
  rfl
@[simp] theorem raiseRequest_mapped (s : State) (k : IrqSource) (c₀ : Addr) : (s.raiseRequest k).mapped c₀ = s.mapped c₀ :=
  rfl
@[simp] theorem raiseRequest_stackAddr (s : State) (k : IrqSource) (c₀ : Byte) : (s.raiseRequest k).stackAddr c₀ = s.stackAddr c₀ :=
  rfl
@[simp] theorem raiseRequest_mx (s : State) (k : IrqSource) : (s.raiseRequest k).mx = s.mx :=
  rfl
@[simp] theorem raiseRequest_input (s : State) (k : IrqSource) (c₀ : Addr) : (s.raiseRequest k).input c₀ = s.input c₀ :=
  rfl
@[simp] theorem raiseRequest_flag (s : State) (k : IrqSource) (c₀ : Flag) : (s.raiseRequest k).flag c₀ = s.flag c₀ :=
  rfl
@[simp] theorem raiseRequest_nextPc (s : State) (k : IrqSource) (c₀ : Nat) : (s.raiseRequest k).nextPc c₀ = s.nextPc c₀ :=
  rfl

@[simp] theorem noteWrite_kind (s : State) (w : WriteScope) (a : Addr) (b : Byte) (c₀ : Addr) : (s.noteWrite w a b).kind c₀ = s.kind c₀ :=
  rfl
@[simp] theorem noteWrite_mapped (s : State) (w : WriteScope) (a : Addr) (b : Byte) (c₀ : Addr) : (s.noteWrite w a b).mapped c₀ = s.mapped c₀ :=
  rfl
@[simp] theorem noteWrite_stackAddr (s : State) (w : WriteScope) (a : Addr) (b : Byte) (c₀ : Byte) : (s.noteWrite w a b).stackAddr c₀ = s.stackAddr c₀ :=
  rfl
@[simp] theorem noteWrite_mx (s : State) (w : WriteScope) (a : Addr) (b : Byte) : (s.noteWrite w a b).mx = s.mx :=
  rfl
@[simp] theorem noteWrite_cell (s : State) (w : WriteScope) (a : Addr) (b : Byte) (c₀ : Addr) : (s.noteWrite w a b).cell c₀ = s.cell c₀ :=
  rfl
@[simp] theorem noteWrite_input (s : State) (w : WriteScope) (a : Addr) (b : Byte) (c₀ : Addr) : (s.noteWrite w a b).input c₀ = s.input c₀ :=
  rfl
@[simp] theorem noteWrite_byteAt (s : State) (w : WriteScope) (a : Addr) (b : Byte) (k₀ : Access) (c₀ : Addr) : (s.noteWrite w a b).byteAt k₀ c₀ = s.byteAt k₀ c₀ :=
  rfl
@[simp] theorem noteWrite_flag (s : State) (w : WriteScope) (a : Addr) (b : Byte) (c₀ : Flag) : (s.noteWrite w a b).flag c₀ = s.flag c₀ :=
  rfl
@[simp] theorem noteWrite_nextPc (s : State) (w : WriteScope) (a : Addr) (b : Byte) (c₀ : Nat) : (s.noteWrite w a b).nextPc c₀ = s.nextPc c₀ :=
  rfl

@[simp] theorem tick_kind (s : State) (c₀ : Addr) : s.tick.kind c₀ = s.kind c₀ :=
  rfl
@[simp] theorem tick_mapped (s : State) (c₀ : Addr) : s.tick.mapped c₀ = s.mapped c₀ :=
  rfl
@[simp] theorem tick_stackAddr (s : State) (c₀ : Byte) : s.tick.stackAddr c₀ = s.stackAddr c₀ :=
  rfl
@[simp] theorem tick_mx (s : State) : s.tick.mx = s.mx :=
  rfl
@[simp] theorem tick_cell (s : State) (c₀ : Addr) : s.tick.cell c₀ = s.cell c₀ :=
  rfl
@[simp] theorem tick_input (s : State) (c₀ : Addr) : s.tick.input c₀ = s.input c₀ :=
  rfl
@[simp] theorem tick_flag (s : State) (c₀ : Flag) : s.tick.flag c₀ = s.flag c₀ :=
  rfl
@[simp] theorem tick_nextPc (s : State) (c₀ : Nat) : s.tick.nextPc c₀ = s.nextPc c₀ :=
  rfl

end Sys2Proof.Machine
end

