-- ==== Sys2Proof/Laws/Flags.lean ====
section
/-! SUPPORT. What each flag is after each flag computation. -/

namespace Sys2Proof.Machine

theorem getLsbD_bitMask (i j : Nat) : (bitMask i).getLsbD j = (decide (j < 8) && decide (j = i)) := by
  simp only [bitMask, BitVec.getLsbD_shiftLeft, BitVec.getLsbD_one]
  by_cases h : j < 8 <;> by_cases h' : j < i <;> simp [h, h'] <;> omega

theorem getLsbD_setBit (b : Byte) (i j : Nat) :
    (setBit b i).getLsbD j = (b.getLsbD j || (decide (j < 8) && decide (j = i))) := by
  simp [setBit, getLsbD_bitMask]

theorem getLsbD_clearBit (b : Byte) (i j : Nat) :
    (clearBit b i).getLsbD j = (b.getLsbD j && !decide (j = i)) := by
  by_cases h : j < 8
  · simp [clearBit, getLsbD_bitMask, h, -BitVec.getLsbD_eq_getElem]
  · simp [clearBit, BitVec.getLsbD_of_ge _ _ (Nat.le_of_not_lt h)]

theorem flagBit_lt (f : Flag) : flagBit f < 8 := by cases f <;> decide

theorem flagBit_inj {f g : Flag} : flagBit f = flagBit g ↔ f = g := by
  cases f <;> cases g <;> simp [flagBit]

@[simp] theorem getFlag_putFlag (ps : Byte) (f g : Flag) (v : Bool) :
    getFlag (putFlag ps f v) g = if g = f then v else getFlag ps g := by
  cases v <;> by_cases h : g = f <;>
    simp [getFlag, putFlag, getLsbD_setBit, getLsbD_clearBit, flagBit_inj, flagBit_lt, h, -BitVec.getLsbD_eq_getElem]

@[simp] theorem setFlag_flag (s : State) (f g : Flag) (v : Bool) :
    (s.setFlag f v).flag g = if g = f then v else s.flag g := getFlag_putFlag s.ps f g v

@[simp] theorem setNZ_flag (s : State) (v : Byte) (g : Flag) :
    (s.setNZ v).flag g = if g = .z then decide (v = 0) else if g = .n then v.msb else s.flag g := by
  simp only [State.setNZ, setFlag_flag]

@[simp] theorem setCompare_flag (s : State) (a m : Byte) (g : Flag) :
    (s.setCompare a m).flag g =
      if g = .c then decide (m.toNat ≤ a.toNat) else (s.setNZ (a - m)).flag g := by
  simp only [State.setCompare, setFlag_flag]

@[simp] theorem setBitTest_flag (s : State) (a m : Byte) (g : Flag) :
    (s.setBitTest a m).flag g =
      if g = .z then decide (a &&& m = 0) else if g = .v then m.getLsbD 6 else if g = .n then m.getLsbD 7 else s.flag g := by
  simp only [State.setBitTest, setFlag_flag]

@[simp] theorem setShift_flag (s : State) (o : Shifted) (g : Flag) :
    (s.setShift o).flag g = if g = .c then o.c else (s.setNZ o.r).flag g := by
  simp only [State.setShift, setFlag_flag]

@[simp] theorem setArith_flag (s : State) (o : Arith) (g : Flag) :
    (s.setArith o).flag g =
      if g = .c then o.c else if g = .z then o.z else if g = .v then o.v else if g = .n then o.n else s.flag g := by
  simp only [State.setArith, setFlag_flag]

/-- A PS byte is what its flags are. -/
theorem ps_ext {p q : Byte} (h : ∀ f, getFlag p f = getFlag q f) : p = q := by
  apply BitVec.eq_of_getLsbD_eq
  intro i hi
  have key : ∃ f, flagBit f = i := by
    match i, hi with
    | 0, _ => exact ⟨.c, rfl⟩
    | 1, _ => exact ⟨.z, rfl⟩
    | 2, _ => exact ⟨.i, rfl⟩
    | 3, _ => exact ⟨.d, rfl⟩
    | 4, _ => exact ⟨.b, rfl⟩
    | 5, _ => exact ⟨.t, rfl⟩
    | 6, _ => exact ⟨.v, rfl⟩
    | 7, _ => exact ⟨.n, rfl⟩
  obtain ⟨f, rfl⟩ := key
  exact h f

/-- The most significant bit of a byte is bit 7. -/
theorem msb_eq_getLsbD (v : Byte) : v.msb = v.getLsbD 7 := by simp [BitVec.msb_eq_getLsbD_last]

end Sys2Proof.Machine
end

