-- ==== Sys2Proof/Laws/Memory.lean ====
section
/-! SUPPORT. The laws of memory: a read after a write, and the canonical form kept by every operation on it. -/

namespace Sys2Proof.Machine

theorem get_without (m : Memory) (a b : Addr) :
    Memory.get (Memory.without m a) b = if a = b then unlistedByte else Memory.get m b := by
  induction m with
  | nil => simp [Memory.without, Memory.get]
  | cons e m ih =>
    obtain ⟨k, w⟩ := e
    by_cases hk : k = a.toNat
    · simp only [Memory.without, hk, if_true, ih]
      by_cases hab : a = b
      · simp [hab]
      · have : a.toNat ≠ b.toNat := fun h => hab (BitVec.toNat_inj.mp h)
        simp [hab, Memory.get, this]
    · by_cases hab : a = b
      · subst hab
        simpa [Memory.without, hk, Memory.get] using ih
      · by_cases hb : k = b.toNat <;> simp [Memory.without, if_neg hk, Memory.get, hb, ih, hab]
        subst hb
        simp [hk, Memory.get]

theorem get_insert {m : Memory} {a : Addr} (h : Memory.get m a = unlistedByte) (b : Addr) (v : Byte) :
    Memory.get (Memory.insert m a v) b = if a = b then v else Memory.get m b := by
  have cell (m : Memory) : Memory.get (Memory.cell a v ++ m) b =
      if a = b then (if v = unlistedByte then Memory.get m b else v) else Memory.get m b := by
    unfold Memory.cell
    by_cases hv : v = unlistedByte <;> by_cases hab : a = b <;> simp [hv, hab, Memory.get]
    intro h'; exact absurd (BitVec.toNat_inj.mp h') hab
  induction m with
  | nil =>
    have := cell []
    rw [List.append_nil] at this
    rw [Memory.insert, this]
    by_cases hv : v = unlistedByte <;> simp [hv, Memory.get]
  | cons e m ih =>
    obtain ⟨k, w⟩ := e
    unfold Memory.insert
    by_cases hk : k < a.toNat
    · have hka : k ≠ a.toNat := by omega
      have h' : Memory.get m a = unlistedByte := by simpa [Memory.get, hka] using h
      by_cases hb : k = b.toNat
      · have : a ≠ b := by rintro rfl; omega
        subst hb
        simp [hk, Memory.get, this]
      · simp [hk, Memory.get, hb, ih h']
    · rw [if_neg hk, cell]
      by_cases hab : a = b
      · subst hab; by_cases hv : v = unlistedByte <;> simp [hv, h]
      · simp [hab]

/-- A read after a write, in any memory. -/
theorem get_set (m : Memory) (a b : Addr) (v : Byte) :
    Memory.get (Memory.set m a v) b = if a = b then v else Memory.get m b := by
  have h : Memory.get (Memory.without m a) a = unlistedByte := by simp [get_without]
  rw [Memory.set, get_insert h, get_without]
  by_cases hab : a = b <;> simp [hab]

/-- The byte held at an address after a byte is stored in the state's memory. -/
theorem setCell_cell (s : State) (a b : Addr) (v : Byte) :
    (s.setCell a v).cell b = if a = b then v else s.cell b := get_set s.mem a b v

/-- The byte a device shows after the environment changes one. -/
theorem setInput_input (s : State) (a b : Addr) (v : Byte) :
    (s.setInput a v).input b = if a = b then v else s.input b := get_set s.inputs a b v

theorem wfAbove_lower {l u : Nat} {m : Memory} (h : Memory.wfAbove (some u) m = true) (hle : l ≤ u) :
    Memory.wfAbove (some l) m = true := by
  cases m with
  | nil => rfl
  | cons e m =>
    obtain ⟨k, w⟩ := e
    simp only [Memory.wfAbove, Bool.and_eq_true, decide_eq_true_eq] at h ⊢
    exact ⟨⟨⟨by omega, h.1.1.2⟩, h.1.2⟩, h.2⟩

theorem wfAbove_tail {lo : Option Nat} {k : Nat} {w : Byte} {m : Memory}
    (h : Memory.wfAbove lo ((k, w) :: m) = true) : Memory.wfAbove lo m = true := by
  cases lo with
  | none =>
    cases m with
    | nil => rfl
    | cons e m => simp_all [Memory.wfAbove]
  | some l =>
    simp only [Memory.wfAbove, Bool.and_eq_true, decide_eq_true_eq] at h
    exact wfAbove_lower h.2 (by omega)

/-- Nothing is listed at `a` any more, and the form holds. -/
theorem wfAbove_without {lo : Option Nat} {m : Memory} (h : Memory.wfAbove lo m = true) (a : Addr) :
    Memory.wfAbove lo (Memory.without m a) = true ∧ ∀ e ∈ Memory.without m a, e.1 ≠ a.toNat := by
  induction m generalizing lo with
  | nil => exact ⟨rfl, by simp [Memory.without]⟩
  | cons e m ih =>
    obtain ⟨k, w⟩ := e
    by_cases hk : k = a.toNat
    · simpa [Memory.without, hk] using ih (wfAbove_tail h)
    · simp only [Memory.wfAbove, Bool.and_eq_true, decide_eq_true_eq] at h
      simp only [Memory.without, if_neg hk, Memory.wfAbove, Bool.and_eq_true, decide_eq_true_eq]
      exact ⟨⟨h.1, (ih h.2).1⟩, by simpa [hk] using (ih h.2).2⟩

theorem wfAbove_insert {lo : Option Nat} {m : Memory} {a : Addr} (h : Memory.wfAbove lo m = true) (v : Byte)
    (hlo : ∀ l, lo = some l → l < a.toNat) (hm : ∀ e ∈ m, e.1 ≠ a.toNat) :
    Memory.wfAbove lo (Memory.insert m a v) = true := by
  have cell (m : Memory) (h' : Memory.wfAbove lo m = true) (ha : Memory.wfAbove (some a.toNat) m = true) :
      Memory.wfAbove lo (Memory.cell a v ++ m) = true := by
    have : a.toNat < 65536 := a.isLt
    unfold Memory.cell
    by_cases hv : v = unlistedByte
    · simpa [hv] using h'
    · cases lo with
      | none => simp [hv, Memory.wfAbove, this, ha]
      | some l => simp [hv, Memory.wfAbove, this, ha, hlo l rfl]
  induction m generalizing lo with
  | nil => simpa [Memory.insert] using cell [] rfl rfl
  | cons e m ih =>
    obtain ⟨k, w⟩ := e
    have h0 := h
    simp only [Memory.wfAbove, Bool.and_eq_true, decide_eq_true_eq] at h
    have hk : k ≠ a.toNat := hm (k, w) (by simp)
    unfold Memory.insert
    by_cases h1 : k < a.toNat
    · rw [if_pos h1]
      simp only [Memory.wfAbove, Bool.and_eq_true, decide_eq_true_eq]
      refine ⟨h.1, ih h.2 (by rintro l ⟨⟩; exact h1) (fun e he => hm e (by simp [he])) ?_⟩
      intro m h' ha
      have : a.toNat < 65536 := a.isLt
      unfold Memory.cell
      by_cases hv : v = unlistedByte
      · simpa [hv] using h'
      · simp [hv, Memory.wfAbove, this, ha, h1]
    · rw [if_neg h1]
      refine cell _ h0 ?_
      simp only [Memory.wfAbove, Bool.and_eq_true, decide_eq_true_eq]
      exact ⟨⟨⟨by omega, h.1.1.2⟩, h.1.2⟩, h.2⟩

/-- A write keeps the canonical form. -/
theorem set_wf {m : Memory} (h : Memory.wf m = true) (a : Addr) (v : Byte) : Memory.wf (Memory.set m a v) = true :=
  wfAbove_insert (wfAbove_without h a).1 v (by simp) (wfAbove_without h a).2

/-- Writes in sequence keep the canonical form. -/
theorem foldl_set_wf {α : Type} (l : List α) (f : α → Addr) (g : α → Byte) {m : Memory} (h : Memory.wf m = true) :
    Memory.wf (l.foldl (fun m c => Memory.set m (f c) (g c)) m) = true := by
  induction l generalizing m with
  | nil => exact h
  | cons c l ih => exact ih (set_wf h _ _)

/-- A memory built from an image is canonical. -/
theorem ofImage_wf (image : List (Addr × Byte)) : Memory.wf (Memory.ofImage image) = true :=
  foldl_set_wf image _ _ rfl

/-- The memory of the reset state is canonical. -/
theorem reset_mem_wf : Memory.wf State.reset.mem = true ∧ Memory.wf State.reset.inputs = true := ⟨rfl, rfl⟩

end Sys2Proof.Machine
end

