-- ==== Sys2Proof/Laws/Ops.lean ====
section
/-! SUPPORT. One lemma for each shared operation, saying once everything it can do: when it answers a value or a next
state, and which. A proof cites them and unfolds no operation. -/

namespace Sys2Proof.Machine

/-! ### Results -/

@[simp] theorem andThen_next {α β : Type} (a : α) (f : α → Res β) : andThen (.next a) f = f a := rfl

@[simp] theorem andThen_fault {α β : Type} (e : Fault) (f : α → Res β) : andThen (.fault e) f = .fault e := rfl

@[simp] theorem andThen_refused {α β : Type} (e : Refusal) (f : α → Res β) : andThen (.refused e) f = .refused e := rfl

theorem andThen_eq_next {α β : Type} {r : Res α} {f : α → Res β} {b : β} :
    andThen r f = .next b ↔ ∃ a, r = .next a ∧ f a = .next b := by
  cases r <;> simp [andThen]

/-! ### Reading -/

theorem readByte_of_mapped {s : State} {a : Addr} (h : s.mapped a = true) (k : Access) :
    readByte k a s = .next (s.byteAt k a) := by simp [readByte, h]

theorem readByte_eq_next {k : Access} {a : Addr} {s : State} {v : Byte} :
    readByte k a s = .next v ↔ s.mapped a = true ∧ v = s.byteAt k a := by
  by_cases h : s.mapped a = true <;> simp [readByte, h, eq_comm]

theorem readWord_eq_next {k₁ k₂ : Access} {lo hi : Addr} {s : State} {w : Addr} :
    readWord k₁ k₂ lo hi s = .next w ↔
      s.mapped lo = true ∧ s.mapped hi = true ∧ w = cat16 (s.byteAt k₂ hi) (s.byteAt k₁ lo) := by
  simp only [readWord, andThen_eq_next, readByte_eq_next]
  constructor
  · rintro ⟨l, ⟨hl, rfl⟩, h, ⟨hh, rfl⟩, e⟩
    cases e; exact ⟨hl, hh, rfl⟩
  · rintro ⟨hl, hh, rfl⟩
    exact ⟨_, ⟨hl, rfl⟩, _, ⟨hh, rfl⟩, rfl⟩

theorem readZpWord_eq_next {p : Byte} {s : State} {w : Addr} :
    readZpWord p s = .next w ↔ ∃ hi, zpNext p s = .next hi ∧ s.mapped (zext16 p) = true ∧ s.mapped hi = true ∧
      w = cat16 (s.byteAt .pointerHi hi) (s.byteAt .pointerLo (zext16 p)) := by
  simp only [readZpWord, andThen_eq_next, readWord_eq_next]

/-! ### Writing -/

@[simp] theorem storeAt_a (s : State) (a : Addr) (v : Byte) : (s.storeAt a v).a = s.a := by
  unfold State.storeAt; split <;> rfl

@[simp] theorem storeAt_x (s : State) (a : Addr) (v : Byte) : (s.storeAt a v).x = s.x := by
  unfold State.storeAt; split <;> rfl

@[simp] theorem storeAt_y (s : State) (a : Addr) (v : Byte) : (s.storeAt a v).y = s.y := by
  unfold State.storeAt; split <;> rfl

@[simp] theorem storeAt_sp (s : State) (a : Addr) (v : Byte) : (s.storeAt a v).sp = s.sp := by
  unfold State.storeAt; split <;> rfl

@[simp] theorem storeAt_pc (s : State) (a : Addr) (v : Byte) : (s.storeAt a v).pc = s.pc := by
  unfold State.storeAt; split <;> rfl

@[simp] theorem storeAt_ps (s : State) (a : Addr) (v : Byte) : (s.storeAt a v).ps = s.ps := by
  unfold State.storeAt; split <;> rfl

@[simp] theorem storeAt_runState (s : State) (a : Addr) (v : Byte) : (s.storeAt a v).runState = s.runState := by
  unfold State.storeAt; split <;> rfl

@[simp] theorem storeAt_lastWasPlp (s : State) (a : Addr) (v : Byte) : (s.storeAt a v).lastWasPlp = s.lastWasPlp := by
  unfold State.storeAt; split <;> rfl

@[simp] theorem storeAt_lastWasDecimal (s : State) (a : Addr) (v : Byte) : (s.storeAt a v).lastWasDecimal = s.lastWasDecimal := by
  unfold State.storeAt; split <;> rfl

@[simp] theorem storeAt_touched (s : State) (a : Addr) (v : Byte) : (s.storeAt a v).touched = s.touched := by
  unfold State.storeAt; split <;> rfl

@[simp] theorem storeAt_stale (s : State) (a : Addr) (v : Byte) : (s.storeAt a v).stale = s.stale := by
  unfold State.storeAt; split <;> rfl

@[simp] theorem storeAt_draws (s : State) (a : Addr) (v : Byte) : (s.storeAt a v).draws = s.draws := by
  unfold State.storeAt; split <;> rfl

@[simp] theorem storeAt_env (s : State) (a : Addr) (v : Byte) : (s.storeAt a v).env = s.env := by
  unfold State.storeAt; split <;> rfl

@[simp] theorem storeAt_product (s : State) (a : Addr) (v : Byte) : (s.storeAt a v).product = s.product := by
  unfold State.storeAt; split <;> rfl

@[simp] theorem written_a (s : State) (w : WriteScope) (a : Addr) (v : Byte) :
    (s.written w a v).a = s.a := by
  simp only [State.written, noteWrite_a, storeAt_a]

@[simp] theorem written_x (s : State) (w : WriteScope) (a : Addr) (v : Byte) :
    (s.written w a v).x = s.x := by
  simp only [State.written, noteWrite_x, storeAt_x]

@[simp] theorem written_y (s : State) (w : WriteScope) (a : Addr) (v : Byte) :
    (s.written w a v).y = s.y := by
  simp only [State.written, noteWrite_y, storeAt_y]

@[simp] theorem written_sp (s : State) (w : WriteScope) (a : Addr) (v : Byte) :
    (s.written w a v).sp = s.sp := by
  simp only [State.written, noteWrite_sp, storeAt_sp]

@[simp] theorem written_pc (s : State) (w : WriteScope) (a : Addr) (v : Byte) :
    (s.written w a v).pc = s.pc := by
  simp only [State.written, noteWrite_pc, storeAt_pc]

@[simp] theorem written_ps (s : State) (w : WriteScope) (a : Addr) (v : Byte) :
    (s.written w a v).ps = s.ps := by
  simp only [State.written, noteWrite_ps, storeAt_ps]

@[simp] theorem written_runState (s : State) (w : WriteScope) (a : Addr) (v : Byte) :
    (s.written w a v).runState = s.runState := by
  simp only [State.written, noteWrite_runState, storeAt_runState]

@[simp] theorem written_lastWasPlp (s : State) (w : WriteScope) (a : Addr) (v : Byte) :
    (s.written w a v).lastWasPlp = s.lastWasPlp := by
  simp only [State.written, noteWrite_lastWasPlp, storeAt_lastWasPlp]

@[simp] theorem written_lastWasDecimal (s : State) (w : WriteScope) (a : Addr) (v : Byte) :
    (s.written w a v).lastWasDecimal = s.lastWasDecimal := by
  simp only [State.written, noteWrite_lastWasDecimal, storeAt_lastWasDecimal]

@[simp] theorem written_draws (s : State) (w : WriteScope) (a : Addr) (v : Byte) :
    (s.written w a v).draws = s.draws := by
  simp only [State.written, noteWrite_draws, storeAt_draws]

@[simp] theorem written_env (s : State) (w : WriteScope) (a : Addr) (v : Byte) :
    (s.written w a v).env = s.env := by
  simp only [State.written, noteWrite_env, storeAt_env]

@[simp] theorem written_product (s : State) (w : WriteScope) (a : Addr) (v : Byte) :
    (s.written w a v).product = s.product := by
  simp only [State.written, noteWrite_product, storeAt_product]

@[simp] theorem written_kind (s : State) (w : WriteScope) (a : Addr) (v : Byte) (c₀ : Addr) :
    (s.written w a v).kind c₀ = s.kind c₀ := by
  simp only [State.kind, written_product]

@[simp] theorem written_mapped (s : State) (w : WriteScope) (a : Addr) (v : Byte) (c₀ : Addr) :
    (s.written w a v).mapped c₀ = s.mapped c₀ := by
  simp only [State.mapped, State.kind, written_product]

@[simp] theorem written_stackAddr (s : State) (w : WriteScope) (a : Addr) (v : Byte) (c₀ : Byte) :
    (s.written w a v).stackAddr c₀ = s.stackAddr c₀ := by
  simp only [State.stackAddr, written_product]

@[simp] theorem written_flag (s : State) (w : WriteScope) (a : Addr) (v : Byte) (c₀ : Flag) :
    (s.written w a v).flag c₀ = s.flag c₀ := by
  simp only [State.flag, written_ps]

@[simp] theorem written_nextPc (s : State) (w : WriteScope) (a : Addr) (v : Byte) (c₀ : Nat) :
    (s.written w a v).nextPc c₀ = s.nextPc c₀ := by
  simp only [State.nextPc, written_pc]

theorem storeAt_cell (s : State) (a b : Addr) (v : Byte) (h : b ≠ a) : (s.storeAt a v).cell b = s.cell b := by
  unfold State.storeAt
  split <;> first | rfl | exact (setCell_cell ..).trans (if_neg (Ne.symm h))

theorem storeAt_input (s : State) (a b : Addr) (v : Byte) (h : b ≠ a) : (s.storeAt a v).input b = s.input b := by
  unfold State.storeAt
  split <;> first | rfl | exact (setInput_input ..).trans (if_neg (Ne.symm h))

/-- A write leaves every other byte. -/
theorem written_cell (s : State) (w : WriteScope) (a b : Addr) (v : Byte) (h : b ≠ a) :
    (s.written w a v).cell b = s.cell b := storeAt_cell s a b v h

/-- A write leaves what the environment shows at every other address. -/
theorem written_input (s : State) (w : WriteScope) (a b : Addr) (v : Byte) (h : b ≠ a) :
    (s.written w a v).input b = s.input b := storeAt_input s a b v h

/-- RAM holds the byte written. -/
theorem written_ram (s : State) (w : WriteScope) (a : Addr) (v : Byte) (h : s.kind a = .ram) :
    (s.written w a v).cell a = v := by
  show (s.storeAt a v).cell a = v
  simp [State.storeAt, h, setCell_cell]

/-- A write keeps both memories in their canonical form. -/
theorem written_wf {s : State} (hm : Memory.wf s.mem = true) (hi : Memory.wf s.inputs = true) (w : WriteScope)
    (a : Addr) (v : Byte) : Memory.wf (s.written w a v).mem = true ∧ Memory.wf (s.written w a v).inputs = true := by
  show Memory.wf (s.storeAt a v).mem = true ∧ Memory.wf (s.storeAt a v).inputs = true
  unfold State.storeAt
  split <;> exact ⟨by first | exact hm | exact set_wf hm _ _, by first | exact hi | exact set_wf hi _ _⟩

theorem writeByte_eq_next {w : WriteScope} {a : Addr} {v : Byte} {s t : State} :
    writeByte w a v s = .next t ↔ s.mapped a = true ∧ t = s.written w a v := by
  by_cases h : s.mapped a = true <;> simp [writeByte, h, eq_comm]

/-! ### The stack -/

theorem push_eq_next {v : Byte} {s t : State} :
    push v s = .next t ↔ s.mapped (s.stackAddr s.sp) = true ∧
      t = putS (s.sp - 1) (s.written .whole (s.stackAddr s.sp) v) := by
  simp only [push, andThen_eq_next, writeByte_eq_next]
  constructor
  · rintro ⟨u, ⟨h, rfl⟩, e⟩
    cases e; exact ⟨h, by simp only [written_sp]⟩
  · rintro ⟨h, rfl⟩
    exact ⟨_, ⟨h, rfl⟩, by simp only [written_sp]⟩

theorem pull_eq_next {k : Access} {s : State} {r : Byte × State} :
    pull k s = .next r ↔ s.mapped (s.stackAddr (s.sp + 1)) = true ∧
      r = (s.byteAt k (s.stackAddr (s.sp + 1)), putS (s.sp + 1) s) := by
  simp only [pull, andThen_eq_next, readByte_eq_next]
  constructor
  · rintro ⟨v, ⟨h, rfl⟩, e⟩
    cases e; exact ⟨h, rfl⟩
  · rintro ⟨h, rfl⟩
    exact ⟨_, ⟨h, rfl⟩, rfl⟩

theorem pushWord_eq_next {w : Addr} {s t : State} :
    pushWord w s = .next t ↔ ∃ u, push (hiByte w) s = .next u ∧ push (loByte w) u = .next t := by
  simp only [pushWord, andThen_eq_next]

theorem pullWord_eq_next {k₁ k₂ : Access} {s : State} {r : Addr × State} :
    pullWord k₁ k₂ s = .next r ↔ ∃ lo hi, pull k₁ s = .next lo ∧ pull k₂ lo.2 = .next hi ∧
      r = (cat16 hi.1 lo.1, hi.2) := by
  simp only [pullWord, andThen_eq_next]
  constructor
  · rintro ⟨lo, h, hi, h', e⟩
    cases e; exact ⟨lo, hi, h, h', rfl⟩
  · rintro ⟨lo, hi, h, h', rfl⟩
    exact ⟨lo, h, hi, h', rfl⟩

theorem pushFrame_eq_next {ret : Addr} {ps : Byte} {s t : State} :
    pushFrame ret ps s = .next t ↔ ∃ u, pushWord ret s = .next u ∧ push ps u = .next t := by
  simp only [pushFrame, andThen_eq_next]

/-! ### Operand forms -/

theorem operandByte_imm (nn : Byte) (s : State) : operandByte (.imm nn) s = .next nn := rfl

theorem operandByte_mem_eq_next {m : AddrMode} {s : State} {v : Byte} :
    operandByte (.mem m) s = .next v ↔ ∃ ea, effAddr m s = .next ea ∧ s.mapped ea = true ∧ v = s.byteAt .data ea := by
  simp only [operandByte, andThen_eq_next, readByte_eq_next]

theorem readDst_eq_next {s : State} {v : Byte} :
    readDst s = .next v ↔
      (s.flag .t = false ∧ v = s.a) ∨ (s.flag .t = true ∧ s.mapped s.mx = true ∧ v = s.byteAt .dst s.mx) := by
  cases h : s.flag .t <;> grind [readDst, readByte_eq_next]

theorem writeDst_eq_next {v : Byte} {s t : State} :
    writeDst v s = .next t ↔
      (s.flag .t = false ∧ t = putA v s) ∨ (s.flag .t = true ∧ s.mapped s.mx = true ∧ t = s.written .whole s.mx v) := by
  cases h : s.flag .t <;> grind [writeDst, writeByte_eq_next]

theorem storeOp_eq_next {m : AddrMode} {v : Byte} {s t : State} :
    storeOp m v s = .next t ↔ ∃ ea, effAddr m s = .next ea ∧ s.mapped ea = true ∧
      t = (s.begin (modeLength m)).written .whole ea v := by
  simp only [storeOp, andThen_eq_next, writeByte_eq_next, begin_mapped]

theorem loadOp_eq_next {put : Byte → State → State} {o : Operand} {s t : State} :
    loadOp put o s = .next t ↔ ∃ m, operandByte o s = .next m ∧
      t = (put m (s.begin (operandLength o))).setNZ m := by
  simp only [loadOp, andThen_eq_next, Host.Outcome.next.injEq, eq_comm (a := t)]

theorem loadDstOp_eq_next {o : Operand} {s t : State} :
    loadDstOp o s = .next t ↔ ∃ m u, operandByte o s = .next m ∧
      writeDst m (s.begin (operandLength o)) = .next u ∧ t = u.setNZ m := by
  simp only [loadDstOp, andThen_eq_next, Host.Outcome.next.injEq, eq_comm (a := t)]
  grind

theorem logicOp_eq_next {f : Byte → Byte → Byte} {o : Operand} {s t : State} :
    logicOp f o s = .next t ↔ ∃ m a u, operandByte o s = .next m ∧ readDst s = .next a ∧
      writeDst (f a m) (s.begin (operandLength o)) = .next u ∧ t = u.setNZ (f a m) := by
  simp only [logicOp, andThen_eq_next, Host.Outcome.next.injEq, eq_comm (a := t)]
  grind

theorem arithOp_eq_next {f : State → Byte → Byte → Arith} {o : Operand} {s t : State} :
    arithOp f o s = .next t ↔ ∃ m a u, operandByte o s = .next m ∧ readDst s = .next a ∧
      writeDst (f s a m).r (s.begin (operandLength o)) = .next u ∧
      t = (u.setArith (f s a m)).markDecimal (s.flag .d) := by
  simp only [arithOp, andThen_eq_next, Host.Outcome.next.injEq, eq_comm (a := t)]
  grind

theorem compareOp_eq_next {r : Byte} {o : Operand} {s t : State} :
    compareOp r o s = .next t ↔ ∃ m, operandByte o s = .next m ∧
      t = (s.begin (operandLength o)).setCompare r m := by
  simp only [compareOp, andThen_eq_next, Host.Outcome.next.injEq, eq_comm (a := t)]

theorem compareDstOp_eq_next {o : Operand} {s t : State} :
    compareDstOp o s = .next t ↔ ∃ m a, operandByte o s = .next m ∧ readDst s = .next a ∧
      t = (s.begin (operandLength o)).setCompare a m := by
  simp only [compareDstOp, andThen_eq_next, Host.Outcome.next.injEq, eq_comm (a := t)]
  grind

theorem bitTestOp_eq_next {m : AddrMode} {s t : State} :
    bitTestOp m s = .next t ↔ ∃ v, operandByte (.mem m) s = .next v ∧
      t = (s.begin (modeLength m)).setBitTest s.a v := by
  simp only [bitTestOp, andThen_eq_next, Host.Outcome.next.injEq, eq_comm (a := t)]

theorem modifyOp_acc (f : Byte → Byte) (fl : Byte → State → State) (s : State) :
    modifyOp f fl .acc s = .next (fl s.a (putA (f s.a) (s.begin 1))) := rfl

theorem modifyOp_mem_eq_next {f : Byte → Byte} {fl : Byte → State → State} {m : AddrMode} {s t : State} :
    modifyOp f fl (.mem m) s = .next t ↔ ∃ ea, effAddr m s = .next ea ∧ s.mapped ea = true ∧
      t = fl (s.byteAt .data ea) ((s.begin (modeLength m)).written .whole ea (f (s.byteAt .data ea))) := by
  simp only [modifyOp, andThen_eq_next, readByte_eq_next, writeByte_eq_next, begin_mapped,
    Host.Outcome.next.injEq, eq_comm (a := t)]
  grind

theorem modifyBit_eq_next {f : Byte → Nat → Byte} {i : Nat} {zz : Byte} {s t : State} :
    modifyBit f i zz s = .next t ↔ s.mapped (zext16 zz) = true ∧
      t = (s.begin 2).written (.bit i) (zext16 zz) (f (s.byteAt .data (zext16 zz)) i) := by
  simp only [modifyBit, andThen_eq_next, readByte_eq_next, writeByte_eq_next, begin_mapped]
  grind

theorem branchOnZpBit_eq_next {want : Bool} {i : Nat} {zz rr : Byte} {s t : State} :
    branchOnZpBit want i zz rr s = .next t ↔ s.mapped (zext16 zz) = true ∧
      branch ((s.byteAt .data (zext16 zz)).getLsbD i == want) 3 rr s = .next t := by
  simp only [branchOnZpBit, andThen_eq_next, readByte_eq_next]
  grind

/-! ### Interrupts -/

/-- What taking BRK or a hardware interrupt does: `w` is the state after the pushes, the flags and the request bit. -/
theorem takeInterrupt_eq_next {brk : Bool} {ret v : Addr} {accepted : Option IrqSource} {s t : State} :
    takeInterrupt brk ret v accepted s = .next t ↔
      ∃ u w h, pushFrame ret (putFlag s.ps .b brk) s = .next u ∧
        w = (match accepted with
          | some k => ((u.setFlag .b brk).setFlag .i true).clearRequest k
          | none => (u.setFlag .b brk).setFlag .i true) ∧
        readVector v w = .next h ∧ t = (w.clearShadows.goto h).enter .running := by
  simp only [takeInterrupt, andThen_eq_next, Host.Outcome.next.injEq, eq_comm (a := t)]
  grind

theorem returnFromInterrupt_eq_next {s t : State} :
    returnFromInterrupt s = .next t ↔ ∃ p w, pull .pull1 s = .next p ∧ pullWord .pull2 .pull3 p.2 = .next w ∧
      t = (putPs p.1 w.2).goto w.1 := by
  simp only [returnFromInterrupt, andThen_eq_next, Host.Outcome.next.injEq, eq_comm (a := t)]
  grind

/-- The member of the highest priority: in the list, and none above it. -/
theorem highestOf_eq_some {ks : List IrqSource} {k : IrqSource} (h : highestOf ks = some k) :
    k ∈ ks ∧ ∀ j ∈ ks, j.priority ≤ k.priority := by
  induction ks generalizing k with
  | nil => cases h
  | cons c cs ih =>
    unfold highestOf at h
    cases hc : highestOf cs with
    | none =>
      have hn : cs = [] := by
        cases cs with
        | nil => rfl
        | cons d ds => unfold highestOf at hc; cases hd : highestOf ds <;> simp [hd] at hc; split at hc <;> cases hc
      simp only [hc, Option.some.injEq] at h
      subst h hn; simp
    | some b =>
      have hb := ih hc
      simp only [hc] at h
      split at h <;> cases h
      · exact ⟨by simp [hb.1], by intro j hj; rcases List.mem_cons.mp hj with rfl | hj; · omega
                                  · exact hb.2 j hj⟩
      · exact ⟨by simp, by intro j hj; rcases List.mem_cons.mp hj with rfl | hj; · exact Nat.le_refl _
                           · have := hb.2 j hj; omega⟩

/-- Some source is the highest of a list that has one. -/
theorem highestOf_isSome {ks : List IrqSource} (h : ks ≠ []) : ∃ k, highestOf ks = some k := by
  cases ks with
  | nil => exact absurd rfl h
  | cons c cs =>
    unfold highestOf
    cases highestOf cs with
    | none => exact ⟨c, rfl⟩
    | some b => by_cases hp : c.priority < b.priority <;> simp [hp]

/-! ### The fetch and the environment -/

/-- What the fetch permits: a mapped opcode that no shadow forbids and the product defines, its operands, and no test of a
request bit just written (R16 (2), R350, R352, R355). -/
theorem fetchPermitted_eq_next {s : State} {i : Instr} :
    fetchPermitted s = .next i ↔ s.mapped s.pc = true ∧ opcodeHazard (s.byteAt .opcode s.pc) s = none ∧
      ∃ f, opcodeForm s.product (s.byteAt .opcode s.pc) = some f ∧ fetchOperands f s = .next i ∧
        requestHazard i s = false := by
  simp only [fetchPermitted, andThen_eq_next, readByte_eq_next]
  constructor
  · rintro ⟨_, ⟨hm, rfl⟩, h⟩
    split at h <;> try cases h
    next f hz hf =>
      obtain ⟨j, hj, h⟩ := andThen_eq_next.mp h
      split at h <;> cases h
      exact ⟨hm, hz, f, hf, hj, Bool.eq_false_iff.mpr ‹_›⟩
  · rintro ⟨hm, hz, f, hf, hj, hr⟩
    exact ⟨_, ⟨hm, rfl⟩, by simp [hz, hf, hj, hr]⟩

@[simp] theorem showDevice_cell_of_ne {s : State} {a b : Addr} (v : Byte) (h : b ≠ a) :
    (s.showDevice a v).cell b = s.cell b := by
  unfold State.showDevice
  split <;> first | rfl | exact (setCell_cell _ _ _ _).trans (if_neg (Ne.symm h))

@[simp] theorem showDevice_input_of_ne {s : State} {a b : Addr} (v : Byte) (h : b ≠ a) :
    (s.showDevice a v).input b = s.input b := by
  unfold State.showDevice
  split <;> first | rfl | exact (setInput_input _ _ _ _).trans (if_neg (Ne.symm h))

/-! ### The step -/

/-- What one step does, by whose turn it is (R50). -/
theorem step_eq_next {s t : State} (h : step s = .next t) :
    (∃ r, (s.env = [] ∧ r = s ∨ ∃ rest, s.env = .cpu :: rest ∧ r = s.withEnv rest) ∧ cpuStep r = .next t) ∨
    (∃ turn rest, s.env = turn :: rest ∧ turn ≠ .cpu ∧ t = applyTurn turn (s.withEnv rest)) := by
  unfold step turnStep at h
  split at h
  · exact .inl ⟨s, .inl ⟨‹_›, rfl⟩, h⟩
  · exact .inl ⟨_, .inr ⟨_, ‹_›, rfl⟩, h⟩
  · next turn rest hne he => cases h; exact .inr ⟨turn, rest, he, hne, rfl⟩

/-- What the CPU's turn does: interrupt entry, one instruction, or nothing in standby. -/
theorem cpuStep_eq_next {s t : State} (h : cpuStep s = .next t) :
    (∃ k, s.acceptable = some k ∧ interruptEntry k s.tick = .next t) ∨
    (s.acceptable = none ∧ s.runState = .running ∧
      ∃ i, fetchPermitted s.tick = .next i ∧ exec i s.tick = .next t) ∨
    (s.acceptable = none ∧ s.runState ≠ .running ∧ t = s) := by
  unfold cpuStep at h
  split at h
  · exact .inl ⟨_, ‹_›, h⟩
  · split at h
    · rw [runInstr, andThen_eq_next] at h
      exact .inr (.inl ⟨‹_›, ‹_›, h⟩)
    · cases h; exact .inr (.inr ⟨‹_›, by simp_all, rfl⟩)
    · cases h; exact .inr (.inr ⟨‹_›, by simp_all, rfl⟩)

end Sys2Proof.Machine
end

