-- ==== Sys2Proof/Laws/Exec.lean ====
section
/-! SUPPORT. Which shared operation each mnemonic of several modes runs, whatever its mode. -/

namespace Sys2Proof.Machine

theorem instrLength_of_shape {i : Instr} {m : Mnemonic} {f : Form} (h : shape i = (m, f)) :
    instrLength i = formLength f := by simp [instrLength, h]

theorem exec_lda {i : Instr} {o : Operand} (h : shape i = (.lda, .operand o)) (s : State) :
    exec i s = loadDstOp o s := by
  cases i <;> cases h <;> rfl

theorem exec_ldx {i : Instr} {o : Operand} (h : shape i = (.ldx, .operand o)) (s : State) :
    exec i s = loadOp putX o s := by
  cases i <;> cases h <;> rfl

theorem exec_ldy {i : Instr} {o : Operand} (h : shape i = (.ldy, .operand o)) (s : State) :
    exec i s = loadOp putY o s := by
  cases i <;> cases h <;> rfl

theorem exec_adc {i : Instr} {o : Operand} (h : shape i = (.adc, .operand o)) (s : State) :
    exec i s = arithOp State.adcOutcome o s := by
  cases i <;> cases h <;> rfl

theorem exec_sbc {i : Instr} {o : Operand} (h : shape i = (.sbc, .operand o)) (s : State) :
    exec i s = arithOp State.sbcOutcome o s := by
  cases i <;> cases h <;> rfl

theorem exec_and {i : Instr} {o : Operand} (h : shape i = (.and, .operand o)) (s : State) :
    exec i s = logicOp (fun a m => a &&& m) o s := by
  cases i <;> cases h <;> rfl

theorem exec_ora {i : Instr} {o : Operand} (h : shape i = (.ora, .operand o)) (s : State) :
    exec i s = logicOp (fun a m => a ||| m) o s := by
  cases i <;> cases h <;> rfl

theorem exec_eor {i : Instr} {o : Operand} (h : shape i = (.eor, .operand o)) (s : State) :
    exec i s = logicOp (fun a m => a ^^^ m) o s := by
  cases i <;> cases h <;> rfl

theorem exec_cmp {i : Instr} {o : Operand} (h : shape i = (.cmp, .operand o)) (s : State) :
    exec i s = compareDstOp o s := by
  cases i <;> cases h <;> rfl

theorem exec_cpx {i : Instr} {o : Operand} (h : shape i = (.cpx, .operand o)) (s : State) :
    exec i s = compareOp s.x o s := by
  cases i <;> cases h <;> rfl

theorem exec_cpy {i : Instr} {o : Operand} (h : shape i = (.cpy, .operand o)) (s : State) :
    exec i s = compareOp s.y o s := by
  cases i <;> cases h <;> rfl

theorem exec_tst {i : Instr} {o : Operand} (h : shape i = (.tst, .operand o)) (s : State) :
    exec i s = loadOp (fun _ t => t) o s := by
  cases i <;> cases h <;> rfl

theorem exec_sta {i : Instr} {m : AddrMode} (h : shape i = (.sta, .operand (.mem m))) (s : State) :
    exec i s = storeOp m s.a s := by
  cases i <;> cases h <;> rfl

theorem exec_stx {i : Instr} {m : AddrMode} (h : shape i = (.stx, .operand (.mem m))) (s : State) :
    exec i s = storeOp m s.x s := by
  cases i <;> cases h <;> rfl

theorem exec_sty {i : Instr} {m : AddrMode} (h : shape i = (.sty, .operand (.mem m))) (s : State) :
    exec i s = storeOp m s.y s := by
  cases i <;> cases h <;> rfl

theorem exec_bit {i : Instr} {o : Operand} (h : shape i = (.bit, .operand o)) (s : State) :
    ∃ m, o = .mem m ∧ exec i s = bitTestOp m s := by
  cases i <;> cases h <;> exact ⟨_, rfl, rfl⟩

theorem exec_inc {i : Instr} {g : Target} (h : shape i = (.inc, .target g)) (s : State) :
    exec i s = modifyNZ (fun v => v + 1) g s := by
  cases i <;> cases h <;> rfl

theorem exec_dec {i : Instr} {g : Target} (h : shape i = (.dec, .target g)) (s : State) :
    exec i s = modifyNZ (fun v => v - 1) g s := by
  cases i <;> cases h <;> rfl

theorem exec_com {i : Instr} {g : Target} (h : shape i = (.com, .target g)) (s : State) :
    exec i s = modifyNZ (fun v => ~~~v) g s := by
  cases i <;> cases h <;> rfl

theorem exec_rrf {i : Instr} {g : Target} (h : shape i = (.rrf, .target g)) (s : State) :
    exec i s = modifyOp swapNibbles (fun _ t => t) g s := by
  cases i <;> cases h <;> rfl

theorem exec_asl {i : Instr} {g : Target} (h : shape i = (.asl, .target g)) (s : State) :
    exec i s = shiftOp shiftLeft g s := by
  cases i <;> cases h <;> rfl

theorem exec_lsr {i : Instr} {g : Target} (h : shape i = (.lsr, .target g)) (s : State) :
    exec i s = shiftOp shiftRight g s := by
  cases i <;> cases h <;> rfl

theorem exec_rol {i : Instr} {g : Target} (h : shape i = (.rol, .target g)) (s : State) :
    exec i s = shiftOp (fun v => rotateLeft v (s.flag .c)) g s := by
  cases i <;> cases h <;> rfl

theorem exec_ror {i : Instr} {g : Target} (h : shape i = (.ror, .target g)) (s : State) :
    exec i s = shiftOp (fun v => rotateRight v (s.flag .c)) g s := by
  cases i <;> cases h <;> rfl

theorem exec_ldm {i : Instr} {nn zz : Byte} (h : shape i = (.ldm, .ldm nn zz)) (s : State) :
    exec i s = writeByte .whole (zext16 zz) nn (s.begin 3) := by
  cases i <;> cases h <;> rfl

end Sys2Proof.Machine
end

