-- ==== Sys2Proof/Laws/Frame.lean ====
section
/-! SUPPORT. What a store keeps and leaves in the terms of Safety.lean, and the T-mode destination once accessed. -/

namespace Sys2Proof.Machine

theorem getLsbD_maskOf (bits : List Nat) (j : Nat) :
    (maskOf bits).getLsbD j = (decide (j < 8) && decide (j ∈ bits)) := by
  induction bits with
  | nil => simp [maskOf]
  | cons a bits ih =>
    simp [maskOf, ih, getLsbD_bitMask, -BitVec.getLsbD_eq_getElem]
    grind

/-- A control register holds the bit written, but for a request bit written 1 while 0. -/
theorem controlAfterWrite_bit (s : State) (a : Addr) (v : Byte) (j : Nat) (hj : j < 8)
    (h : j ∈ requestBitsAt s.product a → v.getLsbD j = true → (s.cell a).getLsbD j = true) :
    (controlAfterWrite s a v).getLsbD j = v.getLsbD j := by
  simp only [controlAfterWrite, BitVec.getLsbD_or, BitVec.getLsbD_and, BitVec.getLsbD_not, getLsbD_maskOf, hj]
  grind

theorem holdsAt_written (s : State) (w : WriteScope) (a : Addr) (v : Byte) : holdsAt s (s.written w a v) a v := by
  have hc : (s.written w a v).cell a = (s.storeAt a v).cell a := rfl
  have hi : (s.written w a v).input a = (s.storeAt a v).input a := rfl
  unfold holdsAt
  rw [hc, hi]
  unfold State.storeAt
  cases h : s.kind a <;> simp [setCell_cell, -BitVec.getLsbD_eq_getElem]
  intro j hj h'
  exact controlAfterWrite_bit s a v j hj h'

/-- The start of an instruction keeps everything but PC and the shadows. -/
theorem keeps_begin (s : State) (n : Nat) : keeps [] [] [] s (s.begin n) :=
  ⟨fun r _ => by cases r <;> rfl, fun _ _ => rfl, fun _ _ => ⟨rfl, rfl⟩, rfl, rfl, rfl, rfl⟩

/-- An instruction's one store leaves the byte and the shadow it concerns. -/
theorem stored_begin (s : State) (n : Nat) (w : WriteScope) (a : Addr) (v : Byte) :
    stored s ((s.begin n).written w a v) a v (touchedBits s.product w a) := by
  refine ⟨holdsAt_written (s.begin n) w a v, ?_⟩
  show (State.noteWrite _ _ _ _).touched = _
  unfold State.noteWrite
  simp only [storeAt_product, begin_product]
  cases h : touchedBits s.product w a <;> simp

theorem bytesKept_written (s : State) (n : Nat) (w : WriteScope) (a : Addr) (v : Byte) :
    bytesKept [a] s ((s.begin n).written w a v) := by
  intro b hb
  have ne : b ≠ a := by simpa using hb
  exact ⟨written_cell _ _ _ _ _ ne, written_input _ _ _ _ _ ne⟩

/-- An instruction's one store keeps everything else. -/
theorem keeps_written (s : State) (n : Nat) (w : WriteScope) (a : Addr) (v : Byte) :
    keeps [] [] [a] s ((s.begin n).written w a v) := by
  refine ⟨fun r _ => ?_, fun f _ => ?_, bytesKept_written s n w a v, ?_⟩
  · cases r <;> simp [State.reg]
  · simp
  · simp

theorem nzOf_setNZ (s : State) (v : Byte) : nzOf v (s.setNZ v) := by
  simp [nzOf, msb_eq_getLsbD, -BitVec.getLsbD_eq_getElem]

/-- A destination that can be accessed is read. -/
theorem readDst_of_ready {s : State} (h : dstReady s = true) : readDst s = .next (dstByte s) := by
  rw [readDst_eq_next]
  cases ht : s.flag .t <;> simp_all [dstReady, dstByte]

/-- A destination that can be accessed is written, and nothing else is. -/
theorem writeDst_of_ready (s : State) (n : Nat) (v : Byte) (h : dstReady s = true) :
    ∃ u, writeDst v (s.begin n) = .next u ∧ dstTook s u v ∧ u.pc = s.nextPc n ∧ u.lastWasPlp = false ∧
      u.lastWasDecimal = false ∧ keeps (dstRegs s) [] (dstBytes s) s u := by
  cases ht : s.flag .t
  · refine ⟨putA v (s.begin n), writeDst_eq_next.mpr (.inl ⟨by simpa using ht, rfl⟩), by simp [dstTook, ht], rfl, rfl,
      rfl, fun r hr => ?_, fun _ _ => rfl, fun _ _ => ⟨rfl, rfl⟩, rfl, rfl, rfl, rfl⟩
    cases r <;> simp_all [State.reg, dstRegs]
  · have hm : s.mapped s.mx = true := by simpa [dstReady, ht] using h
    refine ⟨(s.begin n).written .whole s.mx v,
      writeDst_eq_next.mpr (.inr ⟨by simpa using ht, by simpa using hm, rfl⟩), ?_, by simp, by simp, by simp, ?_⟩
    · simp only [dstTook, ht, if_true]
      exact stored_begin s n .whole s.mx v
    · simpa [dstRegs, dstBytes, ht] using keeps_written s n .whole s.mx v

/-- What the destination took shows in a state that differs in flags only. -/
theorem dstTook_of_eq {s u t : State} {v : Byte} (h : dstTook s u v) (ha : t.a = u.a) (ht : t.touched = u.touched)
    (hm : t.mem = u.mem) (hi : t.inputs = u.inputs) : dstTook s t v := by
  unfold dstTook stored holdsAt State.cell State.input at *
  rw [ha, ht, hm, hi]
  exact h

/-- Flags written after an effect add themselves to what it does not keep. -/
theorem keeps_of_eq {regs : List Reg} {flags : List Flag} {bytes : List Addr} {s u t : State}
    (h : keeps regs [] bytes s u) (hr : ∀ r, t.reg r = u.reg r) (hf : ∀ f, f ∉ flags → t.flag f = u.flag f)
    (hm : t.mem = u.mem) (hi : t.inputs = u.inputs) (hs : t.runState = u.runState) (hp : t.product = u.product)
    (he : t.env = u.env) (hd : t.draws = u.draws) : keeps regs flags bytes s t := by
  obtain ⟨h1, h2, h3, h4, h5, h6, h7⟩ := h
  refine ⟨fun r hr' => by rw [hr, h1 r hr'], fun f hf' => by rw [hf f hf', h2 f (by simp)], fun b hb => ?_,
    by rw [hs, h4], by rw [hp, h5], by rw [he, h6], by rw [hd, h7]⟩
  simpa [State.cell, State.input, hm, hi] using h3 b hb

end Sys2Proof.Machine
end

