-- ==== Sys2Proof/Laws/PerInstr.lean ====
section
/-! SUPPORT. For each instruction: its encoding starts with an opcode byte that alone fixes its length (R100, R102). -/

namespace Sys2Proof.Laws.OpcodeFixesLength

open Sys2Proof.Machine

/-- The encoding of a well-formed instruction is an opcode byte the map defines and as many bytes more as that opcode says
(R100, R102). -/
def Statement (i : Instr) : Prop :=
  i.wf = true → ∃ (op : Byte) (rest : List Byte) (f : OpForm),
    encode i = op :: rest ∧ decodeOp op = some f ∧ f.bytes = instrLength i ∧ rest.length + 1 = instrLength i

theorem ldaIndX (zz : Byte) : Statement (.ldaIndX zz) := fun _ => ⟨_, _, _, rfl, rfl, rfl, rfl⟩

theorem ldaZp (zz : Byte) : Statement (.ldaZp zz) := fun _ => ⟨_, _, _, rfl, rfl, rfl, rfl⟩

theorem ldaImm (nn : Byte) : Statement (.ldaImm nn) := fun _ => ⟨_, _, _, rfl, rfl, rfl, rfl⟩

theorem ldaAbs (hhll : Addr) : Statement (.ldaAbs hhll) := fun _ => ⟨_, _, _, rfl, rfl, rfl, rfl⟩

theorem ldaIndY (zz : Byte) : Statement (.ldaIndY zz) := fun _ => ⟨_, _, _, rfl, rfl, rfl, rfl⟩

theorem ldaZpX (zz : Byte) : Statement (.ldaZpX zz) := fun _ => ⟨_, _, _, rfl, rfl, rfl, rfl⟩

theorem ldaAbsY (hhll : Addr) : Statement (.ldaAbsY hhll) := fun _ => ⟨_, _, _, rfl, rfl, rfl, rfl⟩

theorem ldaAbsX (hhll : Addr) : Statement (.ldaAbsX hhll) := fun _ => ⟨_, _, _, rfl, rfl, rfl, rfl⟩

theorem ldmZp (nn zz : Byte) : Statement (.ldmZp nn zz) := fun _ => ⟨_, _, _, rfl, rfl, rfl, rfl⟩

theorem ldxImm (nn : Byte) : Statement (.ldxImm nn) := fun _ => ⟨_, _, _, rfl, rfl, rfl, rfl⟩

theorem ldxZp (zz : Byte) : Statement (.ldxZp zz) := fun _ => ⟨_, _, _, rfl, rfl, rfl, rfl⟩

theorem ldxAbs (hhll : Addr) : Statement (.ldxAbs hhll) := fun _ => ⟨_, _, _, rfl, rfl, rfl, rfl⟩

theorem ldxZpY (zz : Byte) : Statement (.ldxZpY zz) := fun _ => ⟨_, _, _, rfl, rfl, rfl, rfl⟩

theorem ldxAbsY (hhll : Addr) : Statement (.ldxAbsY hhll) := fun _ => ⟨_, _, _, rfl, rfl, rfl, rfl⟩

theorem ldyImm (nn : Byte) : Statement (.ldyImm nn) := fun _ => ⟨_, _, _, rfl, rfl, rfl, rfl⟩

theorem ldyZp (zz : Byte) : Statement (.ldyZp zz) := fun _ => ⟨_, _, _, rfl, rfl, rfl, rfl⟩

theorem ldyAbs (hhll : Addr) : Statement (.ldyAbs hhll) := fun _ => ⟨_, _, _, rfl, rfl, rfl, rfl⟩

theorem ldyZpX (zz : Byte) : Statement (.ldyZpX zz) := fun _ => ⟨_, _, _, rfl, rfl, rfl, rfl⟩

theorem ldyAbsX (hhll : Addr) : Statement (.ldyAbsX hhll) := fun _ => ⟨_, _, _, rfl, rfl, rfl, rfl⟩

theorem staIndX (zz : Byte) : Statement (.staIndX zz) := fun _ => ⟨_, _, _, rfl, rfl, rfl, rfl⟩

theorem staZp (zz : Byte) : Statement (.staZp zz) := fun _ => ⟨_, _, _, rfl, rfl, rfl, rfl⟩

theorem staAbs (hhll : Addr) : Statement (.staAbs hhll) := fun _ => ⟨_, _, _, rfl, rfl, rfl, rfl⟩

theorem staIndY (zz : Byte) : Statement (.staIndY zz) := fun _ => ⟨_, _, _, rfl, rfl, rfl, rfl⟩

theorem staZpX (zz : Byte) : Statement (.staZpX zz) := fun _ => ⟨_, _, _, rfl, rfl, rfl, rfl⟩

theorem staAbsY (hhll : Addr) : Statement (.staAbsY hhll) := fun _ => ⟨_, _, _, rfl, rfl, rfl, rfl⟩

theorem staAbsX (hhll : Addr) : Statement (.staAbsX hhll) := fun _ => ⟨_, _, _, rfl, rfl, rfl, rfl⟩

theorem stxZp (zz : Byte) : Statement (.stxZp zz) := fun _ => ⟨_, _, _, rfl, rfl, rfl, rfl⟩

theorem stxAbs (hhll : Addr) : Statement (.stxAbs hhll) := fun _ => ⟨_, _, _, rfl, rfl, rfl, rfl⟩

theorem stxZpY (zz : Byte) : Statement (.stxZpY zz) := fun _ => ⟨_, _, _, rfl, rfl, rfl, rfl⟩

theorem styZp (zz : Byte) : Statement (.styZp zz) := fun _ => ⟨_, _, _, rfl, rfl, rfl, rfl⟩

theorem styAbs (hhll : Addr) : Statement (.styAbs hhll) := fun _ => ⟨_, _, _, rfl, rfl, rfl, rfl⟩

theorem styZpX (zz : Byte) : Statement (.styZpX zz) := fun _ => ⟨_, _, _, rfl, rfl, rfl, rfl⟩

theorem tax : Statement .tax := fun _ => ⟨_, _, _, rfl, rfl, rfl, rfl⟩

theorem txa : Statement .txa := fun _ => ⟨_, _, _, rfl, rfl, rfl, rfl⟩

theorem tay : Statement .tay := fun _ => ⟨_, _, _, rfl, rfl, rfl, rfl⟩

theorem tya : Statement .tya := fun _ => ⟨_, _, _, rfl, rfl, rfl, rfl⟩

theorem tsx : Statement .tsx := fun _ => ⟨_, _, _, rfl, rfl, rfl, rfl⟩

theorem txs : Statement .txs := fun _ => ⟨_, _, _, rfl, rfl, rfl, rfl⟩

theorem pha : Statement .pha := fun _ => ⟨_, _, _, rfl, rfl, rfl, rfl⟩

theorem php : Statement .php := fun _ => ⟨_, _, _, rfl, rfl, rfl, rfl⟩

theorem pla : Statement .pla := fun _ => ⟨_, _, _, rfl, rfl, rfl, rfl⟩

theorem plp : Statement .plp := fun _ => ⟨_, _, _, rfl, rfl, rfl, rfl⟩

theorem adcIndX (zz : Byte) : Statement (.adcIndX zz) := fun _ => ⟨_, _, _, rfl, rfl, rfl, rfl⟩

theorem adcZp (zz : Byte) : Statement (.adcZp zz) := fun _ => ⟨_, _, _, rfl, rfl, rfl, rfl⟩

theorem adcImm (nn : Byte) : Statement (.adcImm nn) := fun _ => ⟨_, _, _, rfl, rfl, rfl, rfl⟩

theorem adcAbs (hhll : Addr) : Statement (.adcAbs hhll) := fun _ => ⟨_, _, _, rfl, rfl, rfl, rfl⟩

theorem adcIndY (zz : Byte) : Statement (.adcIndY zz) := fun _ => ⟨_, _, _, rfl, rfl, rfl, rfl⟩

theorem adcZpX (zz : Byte) : Statement (.adcZpX zz) := fun _ => ⟨_, _, _, rfl, rfl, rfl, rfl⟩

theorem adcAbsY (hhll : Addr) : Statement (.adcAbsY hhll) := fun _ => ⟨_, _, _, rfl, rfl, rfl, rfl⟩

theorem adcAbsX (hhll : Addr) : Statement (.adcAbsX hhll) := fun _ => ⟨_, _, _, rfl, rfl, rfl, rfl⟩

theorem sbcIndX (zz : Byte) : Statement (.sbcIndX zz) := fun _ => ⟨_, _, _, rfl, rfl, rfl, rfl⟩

theorem sbcZp (zz : Byte) : Statement (.sbcZp zz) := fun _ => ⟨_, _, _, rfl, rfl, rfl, rfl⟩

theorem sbcImm (nn : Byte) : Statement (.sbcImm nn) := fun _ => ⟨_, _, _, rfl, rfl, rfl, rfl⟩

theorem sbcAbs (hhll : Addr) : Statement (.sbcAbs hhll) := fun _ => ⟨_, _, _, rfl, rfl, rfl, rfl⟩

theorem sbcIndY (zz : Byte) : Statement (.sbcIndY zz) := fun _ => ⟨_, _, _, rfl, rfl, rfl, rfl⟩

theorem sbcZpX (zz : Byte) : Statement (.sbcZpX zz) := fun _ => ⟨_, _, _, rfl, rfl, rfl, rfl⟩

theorem sbcAbsY (hhll : Addr) : Statement (.sbcAbsY hhll) := fun _ => ⟨_, _, _, rfl, rfl, rfl, rfl⟩

theorem sbcAbsX (hhll : Addr) : Statement (.sbcAbsX hhll) := fun _ => ⟨_, _, _, rfl, rfl, rfl, rfl⟩

theorem incAcc : Statement .incAcc := fun _ => ⟨_, _, _, rfl, rfl, rfl, rfl⟩

theorem incZp (zz : Byte) : Statement (.incZp zz) := fun _ => ⟨_, _, _, rfl, rfl, rfl, rfl⟩

theorem incAbs (hhll : Addr) : Statement (.incAbs hhll) := fun _ => ⟨_, _, _, rfl, rfl, rfl, rfl⟩

theorem incZpX (zz : Byte) : Statement (.incZpX zz) := fun _ => ⟨_, _, _, rfl, rfl, rfl, rfl⟩

theorem incAbsX (hhll : Addr) : Statement (.incAbsX hhll) := fun _ => ⟨_, _, _, rfl, rfl, rfl, rfl⟩

theorem decAcc : Statement .decAcc := fun _ => ⟨_, _, _, rfl, rfl, rfl, rfl⟩

theorem decZp (zz : Byte) : Statement (.decZp zz) := fun _ => ⟨_, _, _, rfl, rfl, rfl, rfl⟩

theorem decAbs (hhll : Addr) : Statement (.decAbs hhll) := fun _ => ⟨_, _, _, rfl, rfl, rfl, rfl⟩

theorem decZpX (zz : Byte) : Statement (.decZpX zz) := fun _ => ⟨_, _, _, rfl, rfl, rfl, rfl⟩

theorem decAbsX (hhll : Addr) : Statement (.decAbsX hhll) := fun _ => ⟨_, _, _, rfl, rfl, rfl, rfl⟩

theorem inx : Statement .inx := fun _ => ⟨_, _, _, rfl, rfl, rfl, rfl⟩

theorem iny : Statement .iny := fun _ => ⟨_, _, _, rfl, rfl, rfl, rfl⟩

theorem dex : Statement .dex := fun _ => ⟨_, _, _, rfl, rfl, rfl, rfl⟩

theorem dey : Statement .dey := fun _ => ⟨_, _, _, rfl, rfl, rfl, rfl⟩

theorem mulZpX (zz : Byte) : Statement (.mulZpX zz) := fun _ => ⟨_, _, _, rfl, rfl, rfl, rfl⟩

theorem divZpX (zz : Byte) : Statement (.divZpX zz) := fun _ => ⟨_, _, _, rfl, rfl, rfl, rfl⟩

theorem andIndX (zz : Byte) : Statement (.andIndX zz) := fun _ => ⟨_, _, _, rfl, rfl, rfl, rfl⟩

theorem andZp (zz : Byte) : Statement (.andZp zz) := fun _ => ⟨_, _, _, rfl, rfl, rfl, rfl⟩

theorem andImm (nn : Byte) : Statement (.andImm nn) := fun _ => ⟨_, _, _, rfl, rfl, rfl, rfl⟩

theorem andAbs (hhll : Addr) : Statement (.andAbs hhll) := fun _ => ⟨_, _, _, rfl, rfl, rfl, rfl⟩

theorem andIndY (zz : Byte) : Statement (.andIndY zz) := fun _ => ⟨_, _, _, rfl, rfl, rfl, rfl⟩

theorem andZpX (zz : Byte) : Statement (.andZpX zz) := fun _ => ⟨_, _, _, rfl, rfl, rfl, rfl⟩

theorem andAbsY (hhll : Addr) : Statement (.andAbsY hhll) := fun _ => ⟨_, _, _, rfl, rfl, rfl, rfl⟩

theorem andAbsX (hhll : Addr) : Statement (.andAbsX hhll) := fun _ => ⟨_, _, _, rfl, rfl, rfl, rfl⟩

theorem oraIndX (zz : Byte) : Statement (.oraIndX zz) := fun _ => ⟨_, _, _, rfl, rfl, rfl, rfl⟩

theorem oraZp (zz : Byte) : Statement (.oraZp zz) := fun _ => ⟨_, _, _, rfl, rfl, rfl, rfl⟩

theorem oraImm (nn : Byte) : Statement (.oraImm nn) := fun _ => ⟨_, _, _, rfl, rfl, rfl, rfl⟩

theorem oraAbs (hhll : Addr) : Statement (.oraAbs hhll) := fun _ => ⟨_, _, _, rfl, rfl, rfl, rfl⟩

theorem oraIndY (zz : Byte) : Statement (.oraIndY zz) := fun _ => ⟨_, _, _, rfl, rfl, rfl, rfl⟩

theorem oraZpX (zz : Byte) : Statement (.oraZpX zz) := fun _ => ⟨_, _, _, rfl, rfl, rfl, rfl⟩

theorem oraAbsY (hhll : Addr) : Statement (.oraAbsY hhll) := fun _ => ⟨_, _, _, rfl, rfl, rfl, rfl⟩

theorem oraAbsX (hhll : Addr) : Statement (.oraAbsX hhll) := fun _ => ⟨_, _, _, rfl, rfl, rfl, rfl⟩

theorem eorIndX (zz : Byte) : Statement (.eorIndX zz) := fun _ => ⟨_, _, _, rfl, rfl, rfl, rfl⟩

theorem eorZp (zz : Byte) : Statement (.eorZp zz) := fun _ => ⟨_, _, _, rfl, rfl, rfl, rfl⟩

theorem eorImm (nn : Byte) : Statement (.eorImm nn) := fun _ => ⟨_, _, _, rfl, rfl, rfl, rfl⟩

theorem eorAbs (hhll : Addr) : Statement (.eorAbs hhll) := fun _ => ⟨_, _, _, rfl, rfl, rfl, rfl⟩

theorem eorIndY (zz : Byte) : Statement (.eorIndY zz) := fun _ => ⟨_, _, _, rfl, rfl, rfl, rfl⟩

theorem eorZpX (zz : Byte) : Statement (.eorZpX zz) := fun _ => ⟨_, _, _, rfl, rfl, rfl, rfl⟩

theorem eorAbsY (hhll : Addr) : Statement (.eorAbsY hhll) := fun _ => ⟨_, _, _, rfl, rfl, rfl, rfl⟩

theorem eorAbsX (hhll : Addr) : Statement (.eorAbsX hhll) := fun _ => ⟨_, _, _, rfl, rfl, rfl, rfl⟩

theorem comZp (zz : Byte) : Statement (.comZp zz) := fun _ => ⟨_, _, _, rfl, rfl, rfl, rfl⟩

theorem bitZp (zz : Byte) : Statement (.bitZp zz) := fun _ => ⟨_, _, _, rfl, rfl, rfl, rfl⟩

theorem bitAbs (hhll : Addr) : Statement (.bitAbs hhll) := fun _ => ⟨_, _, _, rfl, rfl, rfl, rfl⟩

theorem tstZp (zz : Byte) : Statement (.tstZp zz) := fun _ => ⟨_, _, _, rfl, rfl, rfl, rfl⟩

theorem cmpIndX (zz : Byte) : Statement (.cmpIndX zz) := fun _ => ⟨_, _, _, rfl, rfl, rfl, rfl⟩

theorem cmpZp (zz : Byte) : Statement (.cmpZp zz) := fun _ => ⟨_, _, _, rfl, rfl, rfl, rfl⟩

theorem cmpImm (nn : Byte) : Statement (.cmpImm nn) := fun _ => ⟨_, _, _, rfl, rfl, rfl, rfl⟩

theorem cmpAbs (hhll : Addr) : Statement (.cmpAbs hhll) := fun _ => ⟨_, _, _, rfl, rfl, rfl, rfl⟩

theorem cmpIndY (zz : Byte) : Statement (.cmpIndY zz) := fun _ => ⟨_, _, _, rfl, rfl, rfl, rfl⟩

theorem cmpZpX (zz : Byte) : Statement (.cmpZpX zz) := fun _ => ⟨_, _, _, rfl, rfl, rfl, rfl⟩

theorem cmpAbsY (hhll : Addr) : Statement (.cmpAbsY hhll) := fun _ => ⟨_, _, _, rfl, rfl, rfl, rfl⟩

theorem cmpAbsX (hhll : Addr) : Statement (.cmpAbsX hhll) := fun _ => ⟨_, _, _, rfl, rfl, rfl, rfl⟩

theorem cpxImm (nn : Byte) : Statement (.cpxImm nn) := fun _ => ⟨_, _, _, rfl, rfl, rfl, rfl⟩

theorem cpxZp (zz : Byte) : Statement (.cpxZp zz) := fun _ => ⟨_, _, _, rfl, rfl, rfl, rfl⟩

theorem cpxAbs (hhll : Addr) : Statement (.cpxAbs hhll) := fun _ => ⟨_, _, _, rfl, rfl, rfl, rfl⟩

theorem cpyImm (nn : Byte) : Statement (.cpyImm nn) := fun _ => ⟨_, _, _, rfl, rfl, rfl, rfl⟩

theorem cpyZp (zz : Byte) : Statement (.cpyZp zz) := fun _ => ⟨_, _, _, rfl, rfl, rfl, rfl⟩

theorem cpyAbs (hhll : Addr) : Statement (.cpyAbs hhll) := fun _ => ⟨_, _, _, rfl, rfl, rfl, rfl⟩

theorem aslZp (zz : Byte) : Statement (.aslZp zz) := fun _ => ⟨_, _, _, rfl, rfl, rfl, rfl⟩

theorem aslAcc : Statement .aslAcc := fun _ => ⟨_, _, _, rfl, rfl, rfl, rfl⟩

theorem aslAbs (hhll : Addr) : Statement (.aslAbs hhll) := fun _ => ⟨_, _, _, rfl, rfl, rfl, rfl⟩

theorem aslZpX (zz : Byte) : Statement (.aslZpX zz) := fun _ => ⟨_, _, _, rfl, rfl, rfl, rfl⟩

theorem aslAbsX (hhll : Addr) : Statement (.aslAbsX hhll) := fun _ => ⟨_, _, _, rfl, rfl, rfl, rfl⟩

theorem lsrZp (zz : Byte) : Statement (.lsrZp zz) := fun _ => ⟨_, _, _, rfl, rfl, rfl, rfl⟩

theorem lsrAcc : Statement .lsrAcc := fun _ => ⟨_, _, _, rfl, rfl, rfl, rfl⟩

theorem lsrAbs (hhll : Addr) : Statement (.lsrAbs hhll) := fun _ => ⟨_, _, _, rfl, rfl, rfl, rfl⟩

theorem lsrZpX (zz : Byte) : Statement (.lsrZpX zz) := fun _ => ⟨_, _, _, rfl, rfl, rfl, rfl⟩

theorem lsrAbsX (hhll : Addr) : Statement (.lsrAbsX hhll) := fun _ => ⟨_, _, _, rfl, rfl, rfl, rfl⟩

theorem rolZp (zz : Byte) : Statement (.rolZp zz) := fun _ => ⟨_, _, _, rfl, rfl, rfl, rfl⟩

theorem rolAcc : Statement .rolAcc := fun _ => ⟨_, _, _, rfl, rfl, rfl, rfl⟩

theorem rolAbs (hhll : Addr) : Statement (.rolAbs hhll) := fun _ => ⟨_, _, _, rfl, rfl, rfl, rfl⟩

theorem rolZpX (zz : Byte) : Statement (.rolZpX zz) := fun _ => ⟨_, _, _, rfl, rfl, rfl, rfl⟩

theorem rolAbsX (hhll : Addr) : Statement (.rolAbsX hhll) := fun _ => ⟨_, _, _, rfl, rfl, rfl, rfl⟩

theorem rorZp (zz : Byte) : Statement (.rorZp zz) := fun _ => ⟨_, _, _, rfl, rfl, rfl, rfl⟩

theorem rorAcc : Statement .rorAcc := fun _ => ⟨_, _, _, rfl, rfl, rfl, rfl⟩

theorem rorAbs (hhll : Addr) : Statement (.rorAbs hhll) := fun _ => ⟨_, _, _, rfl, rfl, rfl, rfl⟩

theorem rorZpX (zz : Byte) : Statement (.rorZpX zz) := fun _ => ⟨_, _, _, rfl, rfl, rfl, rfl⟩

theorem rorAbsX (hhll : Addr) : Statement (.rorAbsX hhll) := fun _ => ⟨_, _, _, rfl, rfl, rfl, rfl⟩

theorem rrfZp (zz : Byte) : Statement (.rrfZp zz) := fun _ => ⟨_, _, _, rfl, rfl, rfl, rfl⟩

theorem clbAcc (i : Nat) : Statement (.clbAcc i) := fun h => by
  have lt : i < 8 := of_decide_eq_true h
  interval_cases i <;> exact ⟨_, _, _, rfl, rfl, rfl, rfl⟩

theorem clbZp (i : Nat) (zz : Byte) : Statement (.clbZp i zz) := fun h => by
  have lt : i < 8 := of_decide_eq_true h
  interval_cases i <;> exact ⟨_, _, _, rfl, rfl, rfl, rfl⟩

theorem sebAcc (i : Nat) : Statement (.sebAcc i) := fun h => by
  have lt : i < 8 := of_decide_eq_true h
  interval_cases i <;> exact ⟨_, _, _, rfl, rfl, rfl, rfl⟩

theorem sebZp (i : Nat) (zz : Byte) : Statement (.sebZp i zz) := fun h => by
  have lt : i < 8 := of_decide_eq_true h
  interval_cases i <;> exact ⟨_, _, _, rfl, rfl, rfl, rfl⟩

theorem clc : Statement .clc := fun _ => ⟨_, _, _, rfl, rfl, rfl, rfl⟩

theorem sec : Statement .sec := fun _ => ⟨_, _, _, rfl, rfl, rfl, rfl⟩

theorem cld : Statement .cld := fun _ => ⟨_, _, _, rfl, rfl, rfl, rfl⟩

theorem sed : Statement .sed := fun _ => ⟨_, _, _, rfl, rfl, rfl, rfl⟩

theorem cli : Statement .cli := fun _ => ⟨_, _, _, rfl, rfl, rfl, rfl⟩

theorem sei : Statement .sei := fun _ => ⟨_, _, _, rfl, rfl, rfl, rfl⟩

theorem clt : Statement .clt := fun _ => ⟨_, _, _, rfl, rfl, rfl, rfl⟩

theorem set : Statement .set := fun _ => ⟨_, _, _, rfl, rfl, rfl, rfl⟩

theorem clv : Statement .clv := fun _ => ⟨_, _, _, rfl, rfl, rfl, rfl⟩

theorem jmpAbs (hhll : Addr) : Statement (.jmpAbs hhll) := fun _ => ⟨_, _, _, rfl, rfl, rfl, rfl⟩

theorem jmpInd (hhll : Addr) : Statement (.jmpInd hhll) := fun _ => ⟨_, _, _, rfl, rfl, rfl, rfl⟩

theorem jmpZpInd (zz : Byte) : Statement (.jmpZpInd zz) := fun _ => ⟨_, _, _, rfl, rfl, rfl, rfl⟩

theorem bra (rr : Byte) : Statement (.bra rr) := fun _ => ⟨_, _, _, rfl, rfl, rfl, rfl⟩

theorem bcc (rr : Byte) : Statement (.bcc rr) := fun _ => ⟨_, _, _, rfl, rfl, rfl, rfl⟩

theorem bcs (rr : Byte) : Statement (.bcs rr) := fun _ => ⟨_, _, _, rfl, rfl, rfl, rfl⟩

theorem beq (rr : Byte) : Statement (.beq rr) := fun _ => ⟨_, _, _, rfl, rfl, rfl, rfl⟩

theorem bne (rr : Byte) : Statement (.bne rr) := fun _ => ⟨_, _, _, rfl, rfl, rfl, rfl⟩

theorem bmi (rr : Byte) : Statement (.bmi rr) := fun _ => ⟨_, _, _, rfl, rfl, rfl, rfl⟩

theorem bpl (rr : Byte) : Statement (.bpl rr) := fun _ => ⟨_, _, _, rfl, rfl, rfl, rfl⟩

theorem bvc (rr : Byte) : Statement (.bvc rr) := fun _ => ⟨_, _, _, rfl, rfl, rfl, rfl⟩

theorem bvs (rr : Byte) : Statement (.bvs rr) := fun _ => ⟨_, _, _, rfl, rfl, rfl, rfl⟩

theorem bbcAcc (i : Nat) (rr : Byte) : Statement (.bbcAcc i rr) := fun h => by
  have lt : i < 8 := of_decide_eq_true h
  interval_cases i <;> exact ⟨_, _, _, rfl, rfl, rfl, rfl⟩

theorem bbcZp (i : Nat) (zz rr : Byte) : Statement (.bbcZp i zz rr) := fun h => by
  have lt : i < 8 := of_decide_eq_true h
  interval_cases i <;> exact ⟨_, _, _, rfl, rfl, rfl, rfl⟩

theorem bbsAcc (i : Nat) (rr : Byte) : Statement (.bbsAcc i rr) := fun h => by
  have lt : i < 8 := of_decide_eq_true h
  interval_cases i <;> exact ⟨_, _, _, rfl, rfl, rfl, rfl⟩

theorem bbsZp (i : Nat) (zz rr : Byte) : Statement (.bbsZp i zz rr) := fun h => by
  have lt : i < 8 := of_decide_eq_true h
  interval_cases i <;> exact ⟨_, _, _, rfl, rfl, rfl, rfl⟩

theorem jsrZpInd (zz : Byte) : Statement (.jsrZpInd zz) := fun _ => ⟨_, _, _, rfl, rfl, rfl, rfl⟩

theorem jsrAbs (hhll : Addr) : Statement (.jsrAbs hhll) := fun _ => ⟨_, _, _, rfl, rfl, rfl, rfl⟩

theorem jsrSp (hhll : Addr) : Statement (.jsrSp hhll) := fun _ => ⟨_, _, _, rfl, rfl, rfl, rfl⟩

theorem rts : Statement .rts := fun _ => ⟨_, _, _, rfl, rfl, rfl, rfl⟩

theorem rti : Statement .rti := fun _ => ⟨_, _, _, rfl, rfl, rfl, rfl⟩

theorem brk : Statement .brk := fun _ => ⟨_, _, _, rfl, rfl, rfl, rfl⟩

theorem stp : Statement .stp := fun _ => ⟨_, _, _, rfl, rfl, rfl, rfl⟩

theorem wit : Statement .wit := fun _ => ⟨_, _, _, rfl, rfl, rfl, rfl⟩

theorem nop : Statement .nop := fun _ => ⟨_, _, _, rfl, rfl, rfl, rfl⟩

end Sys2Proof.Laws.OpcodeFixesLength
end

