-- ==== Sys2Proof/Laws/Run.lean ====
section
/-! SUPPORT. What runs do: a run has exactly one of the outcomes R53 keeps apart, its final state is the one at the first
boundary that ends it, and a stuck machine stays stuck whatever turns are to come. -/

namespace Sys2Proof.Machine

theorem ended_iff {s : State} {endPc : Addr} :
    s.ended endPc = true ↔ s.runState = .running ∧ s.pc = endPc ∧ s.acceptable = none := by
  simp [State.ended, and_assoc]

theorem asleep_iff {s : State} : s.asleep = true ↔ s.runState ≠ .running ∧ s.acceptable = none := by
  simp [State.asleep]

theorem asleep_of_stuck {s : State} (h : s.stuck = true) : s.asleep = true := by
  unfold State.stuck at h
  cases he : s.env <;> simp_all [staysAsleep]

theorem not_ended_of_stuck {s : State} (h : s.stuck = true) (endPc : Addr) : s.ended endPc = false := by
  have := (asleep_iff.mp (asleep_of_stuck h)).1
  simp [State.ended, this]

/-- The CPU's turn changes nothing while it is asleep. -/
theorem cpuStep_of_asleep {s : State} (h : s.asleep = true) : cpuStep s = .next s := by
  obtain ⟨hr, ha⟩ := asleep_iff.mp h
  unfold cpuStep
  rw [ha]
  cases hs : s.runState <;> simp_all

@[simp] theorem applyTurn_env (turn : Turn) (s : State) : (applyTurn turn s).env = s.env := by
  cases turn with
  | cpu => rfl
  | setRequest k => simp only [applyTurn]; split <;> rfl
  | deviceInput a v => simp only [applyTurn, State.showDevice]; split <;> rfl
  | reset => rfl

theorem asleep_withEnv (s : State) (turns : List Turn) : (s.withEnv turns).asleep = s.asleep := rfl

/-- A stuck machine steps, and to a stuck machine. -/
theorem stuck_step {s : State} (h : s.stuck = true) : ∃ t, step s = .next t ∧ t.stuck = true := by
  have ha := asleep_of_stuck h
  unfold State.stuck at h
  unfold step turnStep
  split
  · next he => exact ⟨s, cpuStep_of_asleep ha, by simpa [State.stuck, he] using h⟩
  · next rest he =>
    refine ⟨s.withEnv rest, cpuStep_of_asleep (by rw [asleep_withEnv, ha]), ?_⟩
    simpa [he, staysAsleep, ha, State.stuck, applyTurn, State.withEnv] using h
  · next turn rest hne he =>
    refine ⟨_, rfl, ?_⟩
    simpa [he, staysAsleep, ha, State.stuck, State.withEnv] using h

/-- A run that has ended or is stuck takes no further step. -/
theorem runTo_of_ended {endPc : Addr} {s : State} (h : s.ended endPc = true) (n : Nat) : runTo endPc n s = .ended s := by
  cases n <;> simp [runTo, h]

theorem runTo_of_stuck {endPc : Addr} {s : State} (h : s.stuck = true) (n : Nat) : runTo endPc n s = .stuck s := by
  cases n <;> simp [runTo, h, not_ended_of_stuck h]

/-- A run that has not stopped yet, with one step more to take. -/
theorem runTo_succ {endPc : Addr} {s : State} (he : s.ended endPc = false) (hs : s.stuck = false) (n : Nat) :
    runTo endPc (n + 1) s =
      match step s with
      | .next t => runTo endPc n t
      | .fault e => .faulted e
      | .refused e => .refused e := by
  simp only [runTo, he, hs]; rfl

/-- A result is final unless the run is unfinished: more steps give the same. -/
theorem runTo_add {endPc : Addr} {n : Nat} {s : State} {r : RunResult} (h : runTo endPc n s = r)
    (hr : ∀ t, r ≠ .unfinished t) (m : Nat) : runTo endPc (n + m) s = r := by
  by_cases he : s.ended endPc = true
  · rw [runTo_of_ended he] at h ⊢; exact h
  by_cases hs : s.stuck = true
  · rw [runTo_of_stuck hs] at h ⊢; exact h
  induction n generalizing s with
  | zero => simp only [runTo, he, hs] at h; exact absurd h.symm (hr s)
  | succ n ih =>
    rw [Nat.succ_add]
    rw [runTo_succ (by simpa using he) (by simpa using hs)] at h ⊢
    cases hst : step s with
    | fault e => rw [hst] at h; exact h
    | refused e => rw [hst] at h; exact h
    | next t =>
      simp only [hst] at h ⊢
      by_cases het : t.ended endPc = true
      · rw [runTo_of_ended het] at h; exact (runTo_of_ended het _).trans h
      by_cases hts : t.stuck = true
      · rw [runTo_of_stuck hts] at h; exact (runTo_of_stuck hts _).trans h
      exact ih h het hts

/-- Two results of one run, neither unfinished, are one. -/
theorem runTo_unique {endPc : Addr} {n m : Nat} {s : State} (hn : ∀ t, runTo endPc n s ≠ .unfinished t)
    (hm : ∀ t, runTo endPc m s ≠ .unfinished t) : runTo endPc n s = runTo endPc m s := by
  have h₁ := runTo_add (rfl : runTo endPc n s = _) hn m
  have h₂ := runTo_add (rfl : runTo endPc m s = _) hm n
  rw [← h₁, ← h₂, Nat.add_comm]

/-- A run has one final state. -/
theorem runEnds_unique {s t u : State} {endPc : Addr} (ht : RunEnds s endPc t) (hu : RunEnds s endPc u) : t = u := by
  obtain ⟨n, hn⟩ := ht
  obtain ⟨m, hm⟩ := hu
  have := runTo_unique (endPc := endPc) (s := s) (n := n) (m := m) (by simp [hn]) (by simp [hm])
  simpa [hn, hm] using this

/-- The final state meets the condition of R53. -/
theorem runEnds_ended {s t : State} {endPc : Addr} (h : RunEnds s endPc t) : t.ended endPc = true := by
  obtain ⟨n, h⟩ := h
  induction n generalizing s with
  | zero => simp only [runTo] at h; split at h <;> [(cases h; assumption); (split at h <;> cases h)]
  | succ n ih =>
    simp only [runTo] at h
    split at h
    · cases h; assumption
    · split at h
      · cases h
      · split at h <;> [exact ih h; cases h; cases h]

/-- The outcomes of a run are these four (R53). -/
theorem run_outcomes (s : State) (endPc : Addr) :
    (∃ t, RunEnds s endPc t) ∨ RunStuck s endPc ∨ RunRefused s endPc ∨ RunDiverges s endPc := by
  by_cases h : ∀ n, ∃ t, runTo endPc n s = .unfinished t
  · exact .inr (.inr (.inr h))
  · obtain ⟨n, hn⟩ := not_forall.mp h
    cases hr : runTo endPc n s with
    | ended t => exact .inl ⟨t, n, hr⟩
    | stuck t => exact .inr (.inl ⟨n, t, hr⟩)
    | faulted e => exact .inr (.inr (.inl ⟨n, .inr ⟨e, hr⟩⟩))
    | refused e => exact .inr (.inr (.inl ⟨n, .inl ⟨e, hr⟩⟩))
    | unfinished t => exact absurd ⟨t, hr⟩ hn

/-- No two of them hold of one run. -/
theorem run_outcomes_exclusive (s : State) (endPc : Addr) :
    (∀ t, RunEnds s endPc t → ¬RunStuck s endPc ∧ ¬RunRefused s endPc ∧ ¬RunDiverges s endPc) ∧
    (RunStuck s endPc → ¬RunRefused s endPc ∧ ¬RunDiverges s endPc) ∧
    (RunRefused s endPc → ¬RunDiverges s endPc) := by
  have key : ∀ n m, (∀ t, runTo endPc n s ≠ .unfinished t) → (∀ t, runTo endPc m s ≠ .unfinished t) →
      runTo endPc n s = runTo endPc m s := fun n m => runTo_unique
  refine ⟨?_, ?_, ?_⟩
  · rintro t ⟨n, hn⟩
    refine ⟨?_, ?_, ?_⟩
    · rintro ⟨m, u, hm⟩; have := key n m (by simp [hn]) (by simp [hm]); simp [hn, hm] at this
    · rintro ⟨m, ⟨e, hm⟩ | ⟨e, hm⟩⟩ <;>
      · have := key n m (by simp [hn]) (by simp [hm]); simp [hn, hm] at this
    · intro hd; obtain ⟨u, hu⟩ := hd n; simp [hn] at hu
  · rintro ⟨n, t, hn⟩
    refine ⟨?_, ?_⟩
    · rintro ⟨m, ⟨e, hm⟩ | ⟨e, hm⟩⟩ <;>
      · have := key n m (by simp [hn]) (by simp [hm]); simp [hn, hm] at this
    · intro hd; obtain ⟨u, hu⟩ := hd n; simp [hn] at hu
  · rintro ⟨n, ⟨e, hn⟩ | ⟨e, hn⟩⟩ hd <;>
    · obtain ⟨u, hu⟩ := hd n; simp [hn] at hu

end Sys2Proof.Machine
end

