-- ==== Sys2Proof/Tests/Slice0.lean ====
section
/-! SUPPORT. Tests: the operand checks, the decoding of hand-written words, single steps with the results the spec's worked
examples give (95_test_vectors.md, named V-…), and for each statement with hypotheses a state that meets them. -/

namespace Sys2Proof.Tests

open Sys2Proof.Machine

/-! ### The operand checks refuse (R117, R119, R120, R124) -/

theorem test_wf_clbAcc : (Instr.clbAcc 8).wf = false ∧ (Instr.clbAcc 7).wf = true := by decide

theorem test_wf_clbZp : (Instr.clbZp 8 0x44).wf = false ∧ (Instr.clbZp 7 0x44).wf = true := by decide

theorem test_wf_sebAcc : (Instr.sebAcc 8).wf = false ∧ (Instr.sebAcc 7).wf = true := by decide

theorem test_wf_sebZp : (Instr.sebZp 8 0x44).wf = false ∧ (Instr.sebZp 7 0x44).wf = true := by decide

theorem test_wf_bbcAcc : (Instr.bbcAcc 8 0xF2).wf = false ∧ (Instr.bbcAcc 7 0xF2).wf = true := by decide

theorem test_wf_bbcZp : (Instr.bbcZp 8 0x04 0xF1).wf = false ∧ (Instr.bbcZp 7 0x04 0xF1).wf = true := by decide

theorem test_wf_bbsAcc : (Instr.bbsAcc 8 0xF2).wf = false ∧ (Instr.bbsAcc 7 0xF2).wf = true := by decide

theorem test_wf_bbsZp : (Instr.bbsZp 8 0x04 0xF1).wf = false ∧ (Instr.bbsZp 7 0x04 0xF1).wf = true := by decide

theorem test_wf_jsrSp : (Instr.jsrSp 0xFEFF).wf = false ∧ (Instr.jsrSp 0xFF00).wf = true := by decide

theorem test_wf_plain : (Instr.ldmZp 0xFF 0xFF).wf = true ∧ (Instr.jmpInd 0x20FF).wf = true := by decide

/-! ### Decoding of words written out from the opcode map (R101, R105 to R120, R123) -/

theorem test_decode_lda_ldm :
    decode [0xA1, 0x40] = .ok (.ldaIndX 0x40) ∧ decode [0xA5, 0x40] = .ok (.ldaZp 0x40) ∧
    decode [0xA9, 0xA5] = .ok (.ldaImm 0xA5) ∧ decode [0xAD, 0x12, 0xAD] = .ok (.ldaAbs 0xAD12) ∧
    decode [0xB1, 0x40] = .ok (.ldaIndY 0x40) ∧ decode [0xB5, 0x40] = .ok (.ldaZpX 0x40) ∧
    decode [0xB9, 0x12, 0xAD] = .ok (.ldaAbsY 0xAD12) ∧ decode [0xBD, 0x12, 0xAD] = .ok (.ldaAbsX 0xAD12) ∧
    decode [0x3C, 0x5A, 0x40] = .ok (.ldmZp 0x5A 0x40) := by
  and_intros <;> rfl

theorem test_decode_ldx_ldy :
    decode [0xA2, 0xA5] = .ok (.ldxImm 0xA5) ∧ decode [0xA6, 0x40] = .ok (.ldxZp 0x40) ∧
    decode [0xAE, 0x12, 0xAD] = .ok (.ldxAbs 0xAD12) ∧ decode [0xB6, 0x40] = .ok (.ldxZpY 0x40) ∧
    decode [0xBE, 0x12, 0xAD] = .ok (.ldxAbsY 0xAD12) ∧ decode [0xA0, 0xA5] = .ok (.ldyImm 0xA5) ∧
    decode [0xA4, 0x40] = .ok (.ldyZp 0x40) ∧ decode [0xAC, 0x12, 0xAD] = .ok (.ldyAbs 0xAD12) ∧
    decode [0xB4, 0x40] = .ok (.ldyZpX 0x40) ∧
    decode [0xBC, 0x12, 0xAD] = .ok (.ldyAbsX 0xAD12) := by
  and_intros <;> rfl

theorem test_decode_sta_stx :
    decode [0x81, 0x40] = .ok (.staIndX 0x40) ∧ decode [0x85, 0x40] = .ok (.staZp 0x40) ∧
    decode [0x8D, 0x12, 0xAD] = .ok (.staAbs 0xAD12) ∧ decode [0x91, 0x40] = .ok (.staIndY 0x40) ∧
    decode [0x95, 0x40] = .ok (.staZpX 0x40) ∧ decode [0x99, 0x12, 0xAD] = .ok (.staAbsY 0xAD12) ∧
    decode [0x9D, 0x12, 0xAD] = .ok (.staAbsX 0xAD12) ∧ decode [0x86, 0x40] = .ok (.stxZp 0x40) ∧
    decode [0x8E, 0x12, 0xAD] = .ok (.stxAbs 0xAD12) ∧
    decode [0x96, 0x40] = .ok (.stxZpY 0x40) := by
  and_intros <;> rfl

theorem test_decode_sty_to_pla :
    decode [0x84, 0x40] = .ok (.styZp 0x40) ∧ decode [0x8C, 0x12, 0xAD] = .ok (.styAbs 0xAD12) ∧
    decode [0x94, 0x40] = .ok (.styZpX 0x40) ∧ decode [0xAA] = .ok .tax ∧ decode [0x8A] = .ok .txa ∧
    decode [0xA8] = .ok .tay ∧ decode [0x98] = .ok .tya ∧ decode [0xBA] = .ok .tsx ∧ decode [0x9A] = .ok .txs ∧
    decode [0x48] = .ok .pha ∧ decode [0x08] = .ok .php ∧ decode [0x68] = .ok .pla := by
  and_intros <;> rfl

theorem test_decode_plp :
    decode [0x28] = .ok .plp := by
  rfl

theorem test_decode_adc :
    decode [0x61, 0x40] = .ok (.adcIndX 0x40) ∧ decode [0x65, 0x40] = .ok (.adcZp 0x40) ∧
    decode [0x69, 0xA5] = .ok (.adcImm 0xA5) ∧ decode [0x6D, 0x12, 0xAD] = .ok (.adcAbs 0xAD12) ∧
    decode [0x71, 0x40] = .ok (.adcIndY 0x40) ∧ decode [0x75, 0x40] = .ok (.adcZpX 0x40) ∧
    decode [0x79, 0x12, 0xAD] = .ok (.adcAbsY 0xAD12) ∧
    decode [0x7D, 0x12, 0xAD] = .ok (.adcAbsX 0xAD12) := by
  and_intros <;> rfl

theorem test_decode_sbc :
    decode [0xE1, 0x40] = .ok (.sbcIndX 0x40) ∧ decode [0xE5, 0x40] = .ok (.sbcZp 0x40) ∧
    decode [0xE9, 0xA5] = .ok (.sbcImm 0xA5) ∧ decode [0xED, 0x12, 0xAD] = .ok (.sbcAbs 0xAD12) ∧
    decode [0xF1, 0x40] = .ok (.sbcIndY 0x40) ∧ decode [0xF5, 0x40] = .ok (.sbcZpX 0x40) ∧
    decode [0xF9, 0x12, 0xAD] = .ok (.sbcAbsY 0xAD12) ∧
    decode [0xFD, 0x12, 0xAD] = .ok (.sbcAbsX 0xAD12) := by
  and_intros <;> rfl

theorem test_decode_inc_dec_inx_iny :
    decode [0x3A] = .ok .incAcc ∧ decode [0xE6, 0x40] = .ok (.incZp 0x40) ∧
    decode [0xEE, 0x12, 0xAD] = .ok (.incAbs 0xAD12) ∧ decode [0xF6, 0x40] = .ok (.incZpX 0x40) ∧
    decode [0xFE, 0x12, 0xAD] = .ok (.incAbsX 0xAD12) ∧ decode [0x1A] = .ok .decAcc ∧
    decode [0xC6, 0x40] = .ok (.decZp 0x40) ∧ decode [0xCE, 0x12, 0xAD] = .ok (.decAbs 0xAD12) ∧
    decode [0xD6, 0x40] = .ok (.decZpX 0x40) ∧ decode [0xDE, 0x12, 0xAD] = .ok (.decAbsX 0xAD12) ∧
    decode [0xE8] = .ok .inx ∧ decode [0xC8] = .ok .iny := by
  and_intros <;> rfl

theorem test_decode_dex_dey_mul_div :
    decode [0xCA] = .ok .dex ∧ decode [0x88] = .ok .dey ∧ decode [0x62, 0x40] = .ok (.mulZpX 0x40) ∧
    decode [0xE2, 0x40] = .ok (.divZpX 0x40) := by
  and_intros <;> rfl

theorem test_decode_and :
    decode [0x21, 0x40] = .ok (.andIndX 0x40) ∧ decode [0x25, 0x40] = .ok (.andZp 0x40) ∧
    decode [0x29, 0xA5] = .ok (.andImm 0xA5) ∧ decode [0x2D, 0x12, 0xAD] = .ok (.andAbs 0xAD12) ∧
    decode [0x31, 0x40] = .ok (.andIndY 0x40) ∧ decode [0x35, 0x40] = .ok (.andZpX 0x40) ∧
    decode [0x39, 0x12, 0xAD] = .ok (.andAbsY 0xAD12) ∧
    decode [0x3D, 0x12, 0xAD] = .ok (.andAbsX 0xAD12) := by
  and_intros <;> rfl

theorem test_decode_ora :
    decode [0x01, 0x40] = .ok (.oraIndX 0x40) ∧ decode [0x05, 0x40] = .ok (.oraZp 0x40) ∧
    decode [0x09, 0xA5] = .ok (.oraImm 0xA5) ∧ decode [0x0D, 0x12, 0xAD] = .ok (.oraAbs 0xAD12) ∧
    decode [0x11, 0x40] = .ok (.oraIndY 0x40) ∧ decode [0x15, 0x40] = .ok (.oraZpX 0x40) ∧
    decode [0x19, 0x12, 0xAD] = .ok (.oraAbsY 0xAD12) ∧
    decode [0x1D, 0x12, 0xAD] = .ok (.oraAbsX 0xAD12) := by
  and_intros <;> rfl

theorem test_decode_eor_com_bit_tst :
    decode [0x41, 0x40] = .ok (.eorIndX 0x40) ∧ decode [0x45, 0x40] = .ok (.eorZp 0x40) ∧
    decode [0x49, 0xA5] = .ok (.eorImm 0xA5) ∧ decode [0x4D, 0x12, 0xAD] = .ok (.eorAbs 0xAD12) ∧
    decode [0x51, 0x40] = .ok (.eorIndY 0x40) ∧ decode [0x55, 0x40] = .ok (.eorZpX 0x40) ∧
    decode [0x59, 0x12, 0xAD] = .ok (.eorAbsY 0xAD12) ∧ decode [0x5D, 0x12, 0xAD] = .ok (.eorAbsX 0xAD12) ∧
    decode [0x44, 0x40] = .ok (.comZp 0x40) ∧ decode [0x24, 0x40] = .ok (.bitZp 0x40) ∧
    decode [0x2C, 0x12, 0xAD] = .ok (.bitAbs 0xAD12) ∧
    decode [0x64, 0x40] = .ok (.tstZp 0x40) := by
  and_intros <;> rfl

theorem test_decode_cmp_cpx :
    decode [0xC1, 0x40] = .ok (.cmpIndX 0x40) ∧ decode [0xC5, 0x40] = .ok (.cmpZp 0x40) ∧
    decode [0xC9, 0xA5] = .ok (.cmpImm 0xA5) ∧ decode [0xCD, 0x12, 0xAD] = .ok (.cmpAbs 0xAD12) ∧
    decode [0xD1, 0x40] = .ok (.cmpIndY 0x40) ∧ decode [0xD5, 0x40] = .ok (.cmpZpX 0x40) ∧
    decode [0xD9, 0x12, 0xAD] = .ok (.cmpAbsY 0xAD12) ∧ decode [0xDD, 0x12, 0xAD] = .ok (.cmpAbsX 0xAD12) ∧
    decode [0xE0, 0xA5] = .ok (.cpxImm 0xA5) ∧ decode [0xE4, 0x40] = .ok (.cpxZp 0x40) ∧
    decode [0xEC, 0x12, 0xAD] = .ok (.cpxAbs 0xAD12) := by
  and_intros <;> rfl

theorem test_decode_cpy :
    decode [0xC0, 0xA5] = .ok (.cpyImm 0xA5) ∧ decode [0xC4, 0x40] = .ok (.cpyZp 0x40) ∧
    decode [0xCC, 0x12, 0xAD] = .ok (.cpyAbs 0xAD12) := by
  and_intros <;> rfl

theorem test_decode_asl_lsr :
    decode [0x06, 0x40] = .ok (.aslZp 0x40) ∧ decode [0x0A] = .ok .aslAcc ∧
    decode [0x0E, 0x12, 0xAD] = .ok (.aslAbs 0xAD12) ∧ decode [0x16, 0x40] = .ok (.aslZpX 0x40) ∧
    decode [0x1E, 0x12, 0xAD] = .ok (.aslAbsX 0xAD12) ∧ decode [0x46, 0x40] = .ok (.lsrZp 0x40) ∧
    decode [0x4A] = .ok .lsrAcc ∧ decode [0x4E, 0x12, 0xAD] = .ok (.lsrAbs 0xAD12) ∧
    decode [0x56, 0x40] = .ok (.lsrZpX 0x40) ∧
    decode [0x5E, 0x12, 0xAD] = .ok (.lsrAbsX 0xAD12) := by
  and_intros <;> rfl

theorem test_decode_rol_ror_rrf :
    decode [0x26, 0x40] = .ok (.rolZp 0x40) ∧ decode [0x2A] = .ok .rolAcc ∧
    decode [0x2E, 0x12, 0xAD] = .ok (.rolAbs 0xAD12) ∧ decode [0x36, 0x40] = .ok (.rolZpX 0x40) ∧
    decode [0x3E, 0x12, 0xAD] = .ok (.rolAbsX 0xAD12) ∧ decode [0x66, 0x40] = .ok (.rorZp 0x40) ∧
    decode [0x6A] = .ok .rorAcc ∧ decode [0x6E, 0x12, 0xAD] = .ok (.rorAbs 0xAD12) ∧
    decode [0x76, 0x40] = .ok (.rorZpX 0x40) ∧ decode [0x7E, 0x12, 0xAD] = .ok (.rorAbsX 0xAD12) ∧
    decode [0x82, 0x40] = .ok (.rrfZp 0x40) := by
  and_intros <;> rfl

theorem test_decode_clb_seb :
    decode [0x1B] = .ok (.clbAcc 0) ∧ decode [0xFB] = .ok (.clbAcc 7) ∧ decode [0x1F, 0x12] = .ok (.clbZp 0 0x12) ∧
    decode [0xFF, 0xFF] = .ok (.clbZp 7 0xFF) ∧ decode [0x0B] = .ok (.sebAcc 0) ∧ decode [0xEB] = .ok (.sebAcc 7) ∧
    decode [0x0F, 0x12] = .ok (.sebZp 0 0x12) ∧ decode [0xEF, 0xFF] = .ok (.sebZp 7 0xFF) := by
  and_intros <;> rfl

theorem test_decode_clc_to_clv :
    decode [0x18] = .ok .clc ∧ decode [0x38] = .ok .sec ∧ decode [0xD8] = .ok .cld ∧ decode [0xF8] = .ok .sed ∧
    decode [0x58] = .ok .cli ∧ decode [0x78] = .ok .sei ∧ decode [0x12] = .ok .clt ∧ decode [0x32] = .ok .set ∧
    decode [0xB8] = .ok .clv := by
  and_intros <;> rfl

theorem test_decode_jmp_to_bvs :
    decode [0x4C, 0x12, 0xAD] = .ok (.jmpAbs 0xAD12) ∧ decode [0x6C, 0x12, 0xAD] = .ok (.jmpInd 0xAD12) ∧
    decode [0xB2, 0x40] = .ok (.jmpZpInd 0x40) ∧ decode [0x80, 0xF2] = .ok (.bra 0xF2) ∧
    decode [0x90, 0xF2] = .ok (.bcc 0xF2) ∧ decode [0xB0, 0xF2] = .ok (.bcs 0xF2) ∧
    decode [0xF0, 0xF2] = .ok (.beq 0xF2) ∧ decode [0xD0, 0xF2] = .ok (.bne 0xF2) ∧
    decode [0x30, 0xF2] = .ok (.bmi 0xF2) ∧ decode [0x10, 0xF2] = .ok (.bpl 0xF2) ∧
    decode [0x50, 0xF2] = .ok (.bvc 0xF2) ∧ decode [0x70, 0xF2] = .ok (.bvs 0xF2) := by
  and_intros <;> rfl

theorem test_decode_bbc_bbs :
    decode [0x13, 0x12] = .ok (.bbcAcc 0 0x12) ∧ decode [0xF3, 0xFF] = .ok (.bbcAcc 7 0xFF) ∧
    decode [0x17, 0x12, 0x34] = .ok (.bbcZp 0 0x12 0x34) ∧ decode [0xF7, 0xFF, 0x80] = .ok (.bbcZp 7 0xFF 0x80) ∧
    decode [0x03, 0x12] = .ok (.bbsAcc 0 0x12) ∧ decode [0xE3, 0xFF] = .ok (.bbsAcc 7 0xFF) ∧
    decode [0x07, 0x12, 0x34] = .ok (.bbsZp 0 0x12 0x34) ∧
    decode [0xE7, 0xFF, 0x80] = .ok (.bbsZp 7 0xFF 0x80) := by
  and_intros <;> rfl

theorem test_decode_jsr_rts_rti :
    decode [0x02, 0x40] = .ok (.jsrZpInd 0x40) ∧ decode [0x20, 0x12, 0xAD] = .ok (.jsrAbs 0xAD12) ∧
    decode [0x22, 0xC0] = .ok (.jsrSp 0xFFC0) ∧ decode [0x60] = .ok .rts ∧
    decode [0x40] = .ok .rti := by
  and_intros <;> rfl

theorem test_decode_brk_stp_wit_nop :
    decode [0x00] = .ok .brk ∧ decode [0x42] = .ok .stp ∧ decode [0xC2] = .ok .wit ∧
    decode [0xEA] = .ok .nop := by
  and_intros <;> rfl

theorem test_decode_refuses :
    decode [0x04] = .error (.undefinedOpcode 0x04) ∧ decode [0x89, 0x00] = .error (.undefinedOpcode 0x89) ∧
    decode [0xFC, 0x00, 0x00] = .error (.undefinedOpcode 0xFC) ∧ decode [] = .error .truncated ∧
    decode [0xAD, 0x34] = .error .truncated := by
  and_intros <;> rfl

theorem test_decodeTableWord :
    decodeTableWord 8 0xEA = some .nop ∧ decodeTableWord 24 0x405A3C = some (.ldmZp 0x5A 0x40) ∧
    decodeTableWord 8 0xAD = some (.ldaAbs 0x0000) ∧ decodeTableWord 8 0x9C = none := by decide

/-! ### Single steps -/

/-- The outcome is a next state of which `p` holds. -/
def completes (o : Host.Outcome State Fault Refusal) (p : State → Bool) : Bool :=
  match o with
  | .next t => p t
  | .fault _ => false
  | .refused _ => false

/-- The outcome is this refusal. -/
def refuses (o : Host.Outcome State Fault Refusal) (r : Refusal) : Bool :=
  match o with
  | .next _ => false
  | .fault _ => false
  | .refused q => q = r

/-- The outcome is this fault. -/
def faults (o : Host.Outcome State Fault Refusal) (e : Fault) : Bool :=
  match o with
  | .next _ => false
  | .fault f => f = e
  | .refused _ => false

/-- Bytes at rising addresses from `start`. -/
def place (start : Addr) : List Byte → List (Addr × Byte)
  | [] => []
  | b :: bs => (start, b) :: place (start + 1) bs

/-- The product of the spec's test conventions (95_test_vectors.md). -/
def conventions : Product := { Product.standard with zpPtrWrap := .refuse }

/-- The start state B0 of the spec's test conventions: `code` at 0xC000, further bytes, and a PS byte. -/
def b0 (code : List Byte) (cells : List (Addr × Byte)) (ps : Byte) : State :=
  { State.reset with
    a := 0x11
    x := 0x22
    y := 0x33
    sp := 0xFF
    ps := ps
    mem := Memory.ofImage (place 0xC000 code ++ cells)
    product := conventions }

/-- V-D1 (R151): `LDA #$00`. -/
theorem test_lda_d1 :
    completes (step (b0 [0xA9, 0x00] [] 0x00))
      (fun t => t.a = 0x00 ∧ t.ps = 0x02 ∧ t.pc = 0xC002) = true := by decide

/-- V-D3 (R108, R151): `LDA $F0,X`. -/
theorem test_lda_d3 :
    completes (step (b0 [0xB5, 0xF0] [(0x0012, 0x7F)] 0x00))
      (fun t => t.a = 0x7F ∧ t.ps = 0x00 ∧ t.pc = 0xC002) = true := by decide

/-- V-D4 (R122, R151): `LDA $FFF0,X`. -/
theorem test_lda_d4 :
    completes (step (b0 [0xBD, 0xF0, 0xFF] [(0x0012, 0x5A)] 0x00))
      (fun t => t.a = 0x5A ∧ t.ps = 0x00 ∧ t.pc = 0xC003) = true := by decide

/-- V-D5 (R113, R151): `LDA`. -/
theorem test_lda_d5 :
    completes (step (b0 [0xA1, 0x30] [(0x0052, 0x00), (0x0053, 0x20), (0x2000, 0xC3)] 0x00))
      (fun t => t.a = 0xC3 ∧ t.ps = 0x80 ∧ t.pc = 0xC002) = true := by decide

/-- V-D6 (R114, R151): `LDA ($30),Y`. -/
theorem test_lda_d6 :
    completes (step (b0 [0xB1, 0x30] [(0x0030, 0xF0), (0x0031, 0x20), (0x2123, 0x01)] 0x00))
      (fun t => t.a = 0x01 ∧ t.ps = 0x00 ∧ t.pc = 0xC002) = true := by decide

/-- V-D7 (R152): `LDA #$00`. -/
theorem test_lda_d7 :
    completes (step { b0 [0xA9, 0x00] [] 0x20 with x := 0x40 })
      (fun t => t.a = 0x11 ∧ t.ps = 0x22 ∧ t.cell 0x0040 = 0x00 ∧ t.pc = 0xC002) = true := by decide

/-- V-D9 (R153): `LDM #$5A,$40`. -/
theorem test_ldm_d9 :
    completes (step (b0 [0x3C, 0x5A, 0x40] [] 0x00))
      (fun t => t.ps = 0x00 ∧ t.cell 0x0040 = 0x5A ∧ t.pc = 0xC003) = true := by decide

/-- V-D10 (R109, R154): `LDX $F0,Y`. -/
theorem test_ldx_d10 :
    completes (step (b0 [0xB6, 0xF0] [(0x0023, 0x00)] 0x00))
      (fun t => t.x = 0x00 ∧ t.ps = 0x02 ∧ t.pc = 0xC002) = true := by decide

/-- V-D11 (R155): `LDY $1234,X`. -/
theorem test_ldy_d11 :
    completes (step (b0 [0xBC, 0x34, 0x12] [(0x1256, 0xFE)] 0x00))
      (fun t => t.y = 0xFE ∧ t.ps = 0x80 ∧ t.pc = 0xC003) = true := by decide

/-- V-D12 (R156): `STA ($30),Y`. -/
theorem test_sta_d12 :
    completes (step (b0 [0x91, 0x30] [(0x0030, 0xF0), (0x0031, 0xFF)] 0x00))
      (fun t => t.ps = 0x00 ∧ t.cell 0x0023 = 0x11 ∧ t.pc = 0xC002) = true := by decide

/-- V-D13 (R157): `STX $80,Y`. -/
theorem test_stx_d13 :
    completes (step (b0 [0x96, 0x80] [] 0x00))
      (fun t => t.ps = 0x00 ∧ t.cell 0x00B3 = 0x22 ∧ t.pc = 0xC002) = true := by decide

/-- V-D14 (R158): `STY $2000`. -/
theorem test_sty_d14 :
    completes (step (b0 [0x8C, 0x00, 0x20] [] 0x00))
      (fun t => t.ps = 0x00 ∧ t.cell 0x2000 = 0x33 ∧ t.pc = 0xC003) = true := by decide

/-- V-D15 (R159): `TAX`. -/
theorem test_tax_d15 :
    completes (step { b0 [0xAA] [] 0x00 with a := 0x80 })
      (fun t => t.x = 0x80 ∧ t.ps = 0x80 ∧ t.pc = 0xC001) = true := by decide

/-- V-D16 (R160): `TXA`. -/
theorem test_txa_d16 :
    completes (step { b0 [0x8A] [] 0x00 with x := 0x00 })
      (fun t => t.a = 0x00 ∧ t.ps = 0x02 ∧ t.pc = 0xC001) = true := by decide

/-- V-D17 (R161): `TAY`. -/
theorem test_tay_d17 :
    completes (step (b0 [0xA8] [] 0x00)) (fun t => t.y = 0x11 ∧ t.ps = 0x00 ∧ t.pc = 0xC001) = true := by decide

/-- V-D18 (R162): `TYA`. -/
theorem test_tya_d18 :
    completes (step { b0 [0x98] [] 0x00 with y := 0xFF })
      (fun t => t.a = 0xFF ∧ t.ps = 0x80 ∧ t.pc = 0xC001) = true := by decide

/-- V-D19 (R163): `TSX`. -/
theorem test_tsx_d19 :
    completes (step (b0 [0xBA] [] 0x00)) (fun t => t.x = 0xFF ∧ t.ps = 0x80 ∧ t.pc = 0xC001) = true := by decide

/-- V-D20 (R164): `TXS`. -/
theorem test_txs_d20 :
    completes (step { b0 [0x9A] [] 0x00 with x := 0x00 })
      (fun t => t.sp = 0x00 ∧ t.ps = 0x00 ∧ t.pc = 0xC001) = true := by decide

/-- V-D21 (R165): `PHA`. -/
theorem test_pha_d21 :
    completes (step { b0 [0x48] [] 0x00 with sp := 0x00 })
      (fun t => t.sp = 0xFF ∧ t.ps = 0x00 ∧ t.cell 0x0100 = 0x11 ∧ t.pc = 0xC001) = true := by decide

/-- V-D23 (R166): `PHP`. -/
theorem test_php_d23 :
    completes (step (b0 [0x08] [] 0xB1))
      (fun t => t.sp = 0xFE ∧ t.ps = 0xB1 ∧ t.cell 0x01FF = 0xB1 ∧ t.pc = 0xC001) = true := by decide

/-- V-D24 (R167): `PLA`. -/
theorem test_pla_d24 :
    completes (step (b0 [0x68] [(0x0100, 0x00)] 0x00))
      (fun t => t.a = 0x00 ∧ t.sp = 0x00 ∧ t.ps = 0x02 ∧ t.pc = 0xC001) = true := by decide

/-- V-D25 (R168): `PLP`. -/
theorem test_plp_d25 :
    completes (step { b0 [0x28] [(0x01FD, 0xEB)] 0x00 with sp := 0xFC })
      (fun t => t.sp = 0xFD ∧ t.ps = 0xEB ∧ t.pc = 0xC001) = true := by decide

/-- V-A1 (R181): `ADC #$01`. -/
theorem test_adc_a1 :
    completes (step { b0 [0x69, 0x01] [] 0x00 with a := 0x7F })
      (fun t => t.a = 0x80 ∧ t.ps = 0xC0 ∧ t.pc = 0xC002) = true := by decide

/-- V-A3 (R181): `ADC #$80`. -/
theorem test_adc_a3 :
    completes (step { b0 [0x69, 0x80] [] 0x00 with a := 0x80 })
      (fun t => t.a = 0x00 ∧ t.ps = 0x43 ∧ t.pc = 0xC002) = true := by decide

/-- V-A5 (R181, R185): `ADC #$05`. -/
theorem test_adc_a5 :
    completes (step { b0 [0x69, 0x05] [(0x0050, 0xFA)] 0x21 with a := 0xAA, x := 0x50 })
      (fun t => t.a = 0xAA ∧ t.ps = 0x23 ∧ t.cell 0x0050 = 0x00 ∧ t.pc = 0xC002) = true := by decide

/-- V-A7 (R182): `ADC #$01`. -/
theorem test_adc_a7 :
    completes (step { b0 [0x69, 0x01] [] 0x08 with a := 0x99 })
      (fun t => t.a = 0x00 ∧ t.lastWasDecimal = true ∧ t.pc = 0xC002) = true := by decide

/-- V-A9 (R182): `ADC #$0A`. -/
theorem test_adc_a9 :
    completes (step { b0 [0x69, 0x0A] [] 0x08 with a := 0x15 })
      (fun t => t.lastWasDecimal = true ∧ t.pc = 0xC002) = true := by decide

/-- V-A12 (R183): `SBC #$01`. -/
theorem test_sbc_a12 :
    completes (step { b0 [0xE9, 0x01] [] 0x01 with a := 0x00 })
      (fun t => t.a = 0xFF ∧ t.ps = 0x80 ∧ t.pc = 0xC002) = true := by decide

/-- V-A13 (R183): `SBC #$01`. -/
theorem test_sbc_a13 :
    completes (step { b0 [0xE9, 0x01] [] 0x01 with a := 0x80 })
      (fun t => t.a = 0x7F ∧ t.ps = 0x41 ∧ t.pc = 0xC002) = true := by decide

/-- V-A16 (R184): `SBC #$01`. -/
theorem test_sbc_a16 :
    completes (step { b0 [0xE9, 0x01] [] 0x09 with a := 0x00 })
      (fun t => t.a = 0x99 ∧ t.lastWasDecimal = true ∧ t.pc = 0xC002) = true := by decide

/-- V-A18 (R186): `INC A`. -/
theorem test_inc_a18 :
    completes (step { b0 [0x3A] [] 0x00 with a := 0xFF })
      (fun t => t.a = 0x00 ∧ t.ps = 0x02 ∧ t.pc = 0xC001) = true := by decide

/-- V-A19 (R186): `INC $40`. -/
theorem test_inc_a19 :
    completes (step (b0 [0xE6, 0x40] [(0x0040, 0x7F)] 0x00))
      (fun t => t.ps = 0x80 ∧ t.cell 0x0040 = 0x80 ∧ t.pc = 0xC002) = true := by decide

/-- V-A20 (R187): `DEC A`. -/
theorem test_dec_a20 :
    completes (step { b0 [0x1A] [] 0x00 with a := 0x00 })
      (fun t => t.a = 0xFF ∧ t.ps = 0x80 ∧ t.pc = 0xC001) = true := by decide

/-- V-A21 (R187): `DEC $1234,X`. -/
theorem test_dec_a21 :
    completes (step (b0 [0xDE, 0x34, 0x12] [(0x1256, 0x01)] 0x00))
      (fun t => t.ps = 0x02 ∧ t.cell 0x1256 = 0x00 ∧ t.pc = 0xC003) = true := by decide

/-- V-A22 (R188): `INX`. -/
theorem test_inx_a22 :
    completes (step { b0 [0xE8] [] 0x00 with x := 0xFF })
      (fun t => t.x = 0x00 ∧ t.ps = 0x02 ∧ t.pc = 0xC001) = true := by decide

/-- V-A23 (R189): `INY`. -/
theorem test_iny_a23 :
    completes (step { b0 [0xC8] [] 0x00 with y := 0x7F })
      (fun t => t.y = 0x80 ∧ t.ps = 0x80 ∧ t.pc = 0xC001) = true := by decide

/-- V-A24 (R190): `DEX`. -/
theorem test_dex_a24 :
    completes (step { b0 [0xCA] [] 0x00 with x := 0x00 })
      (fun t => t.x = 0xFF ∧ t.ps = 0x80 ∧ t.pc = 0xC001) = true := by decide

/-- V-A25 (R191): `DEY`. -/
theorem test_dey_a25 :
    completes (step { b0 [0x88] [] 0x00 with y := 0x01 })
      (fun t => t.y = 0x00 ∧ t.ps = 0x02 ∧ t.pc = 0xC001) = true := by decide

/-- V-A26 (R193): `MUL $40,X`. -/
theorem test_mul_a26 :
    completes (step { b0 [0x62, 0x40] [(0x0040, 0xFF)] 0x82 with a := 0xFF, x := 0x00 })
      (fun t => t.a = 0x01 ∧ t.sp = 0xFE ∧ t.ps = 0x82 ∧ t.cell 0x01FF = 0xFE ∧ t.pc = 0xC002) = true := by decide

/-- V-A28 (R194): `DIV $40,X`. -/
theorem test_div_a28 :
    completes (step { b0 [0xE2, 0x40] [(0x0040, 0x00), (0x0041, 0x01)] 0x00 with a := 0x10, x := 0x00 })
      (fun t => t.sp = 0xFE ∧ t.ps = 0x00 ∧ t.cell 0x01FF = 0xFF ∧ t.pc = 0xC002) = true := by decide

/-- V-A30 (R195): `DIV $40,X`. -/
theorem test_div_a30 :
    completes (step { b0 [0xE2, 0x40] [(0x0040, 0x34), (0x0041, 0x12)] 0x00 with a := 0x00, x := 0x00 })
      (fun t => t.sp = 0xFE ∧ t.ps = 0x00 ∧ t.pc = 0xC002) = true := by decide

/-- V-A32 (R142, R193): `MUL $40,X`. -/
theorem test_mul_a32 :
    refuses (step { b0 [0x62, 0x40] [] 0x00 with
        product := { conventions with hasMulDiv := false } }) (.undefinedOpcode 0x62 0xC000) = true := by decide

/-- V-A33 (R121, R194): `DIV $FF,X`. -/
theorem test_div_a33 :
    refuses (step { b0 [0xE2, 0xFF] [(0x0000, 0x00), (0x00FF, 0x10), (0x0100, 0x01)] 0x00 with
        a := 0x02, x := 0x00 }) .zpPointerAtFF = true := by decide

/-- V-A35 (R121, R194): `DIV $FF,X`. -/
theorem test_div_a35 :
    completes (step { b0 [0xE2, 0xFF] [(0x0000, 0x00), (0x00FF, 0x10), (0x0100, 0x01)] 0x00 with
        a := 0x02, x := 0x00, product := { conventions with zpPtrWrap := .carry } })
      (fun t => t.a = 0x88 ∧ t.sp = 0xFE ∧ t.ps = 0x00 ∧ t.cell 0x01FF = 0xFF ∧ t.pc = 0xC002) = true := by decide

/-- V-L1 (R201): `AND #$0F`. -/
theorem test_and_l1 :
    completes (step { b0 [0x29, 0x0F] [] 0x00 with a := 0xF0 })
      (fun t => t.a = 0x00 ∧ t.ps = 0x02 ∧ t.pc = 0xC002) = true := by decide

/-- V-L2 (R185, R201): `AND #$80`. -/
theorem test_and_l2 :
    completes (step { b0 [0x29, 0x80] [(0x0060, 0xFF)] 0x20 with a := 0x00, x := 0x60 })
      (fun t => t.a = 0x00 ∧ t.ps = 0xA0 ∧ t.cell 0x0060 = 0x80 ∧ t.pc = 0xC002) = true := by decide

/-- V-L3 (R202): `ORA $40`. -/
theorem test_ora_l3 :
    completes (step { b0 [0x05, 0x40] [(0x0040, 0x80)] 0x00 with a := 0x01 })
      (fun t => t.a = 0x81 ∧ t.ps = 0x80 ∧ t.pc = 0xC002) = true := by decide

/-- V-L5 (R203): `EOR`. -/
theorem test_eor_l5 :
    completes (step { b0 [0x41, 0x10] [(0x0000, 0x00), (0x0001, 0x30), (0x3000, 0xF0)] 0x00 with
        a := 0x0F, x := 0xF0 })
      (fun t => t.a = 0xFF ∧ t.ps = 0x80 ∧ t.pc = 0xC002) = true := by decide

/-- V-L6 (R204): `COM $40`. -/
theorem test_com_l6 :
    completes (step (b0 [0x44, 0x40] [(0x0040, 0xFF)] 0x00))
      (fun t => t.ps = 0x02 ∧ t.cell 0x0040 = 0x00 ∧ t.pc = 0xC002) = true := by decide

/-- V-L8 (R205): `BIT $40`. -/
theorem test_bit_l8 :
    completes (step { b0 [0x24, 0x40] [(0x0040, 0xC0)] 0x00 with a := 0x01 })
      (fun t => t.ps = 0xC2 ∧ t.pc = 0xC002) = true := by decide

/-- V-L9 (R205): `BIT $2000`. -/
theorem test_bit_l9 :
    completes (step { b0 [0x2C, 0x00, 0x20] [(0x2000, 0x3F)] 0xC0 with a := 0xFF })
      (fun t => t.ps = 0x00 ∧ t.pc = 0xC003) = true := by decide

/-- V-L11 (R206): `TST $40`. -/
theorem test_tst_l11 :
    completes (step (b0 [0x64, 0x40] [(0x0040, 0x80)] 0x02))
      (fun t => t.ps = 0x80 ∧ t.pc = 0xC002) = true := by decide

/-- V-L13 (R207): `CMP #$12`. -/
theorem test_cmp_l13 :
    completes (step (b0 [0xC9, 0x12] [] 0x01)) (fun t => t.ps = 0x80 ∧ t.pc = 0xC002) = true := by decide

/-- V-L15 (R185, R207): `CMP #$10`. -/
theorem test_cmp_l15 :
    completes (step { b0 [0xC9, 0x10] [(0x0070, 0x20)] 0x20 with a := 0x00, x := 0x70 })
      (fun t => t.ps = 0x21 ∧ t.pc = 0xC002) = true := by decide

/-- V-L16 (R208): `CPX $40`. -/
theorem test_cpx_l16 :
    completes (step (b0 [0xE4, 0x40] [(0x0040, 0x22)] 0x00))
      (fun t => t.ps = 0x03 ∧ t.pc = 0xC002) = true := by decide

/-- V-L17 (R209): `CPY #$34`. -/
theorem test_cpy_l17 :
    completes (step (b0 [0xC0, 0x34] [] 0x00)) (fun t => t.ps = 0x80 ∧ t.pc = 0xC002) = true := by decide

/-- V-L18 (R211): `ASL A`. -/
theorem test_asl_l18 :
    completes (step { b0 [0x0A] [] 0x00 with a := 0x80 })
      (fun t => t.a = 0x00 ∧ t.ps = 0x03 ∧ t.pc = 0xC001) = true := by decide

/-- V-L19 (R211): `ASL $40,X`. -/
theorem test_asl_l19 :
    completes (step (b0 [0x16, 0x40] [(0x0062, 0x41)] 0x00))
      (fun t => t.ps = 0x80 ∧ t.cell 0x0062 = 0x82 ∧ t.pc = 0xC002) = true := by decide

/-- V-L20 (R212): `LSR A`. -/
theorem test_lsr_l20 :
    completes (step { b0 [0x4A] [] 0x80 with a := 0x01 })
      (fun t => t.a = 0x00 ∧ t.ps = 0x03 ∧ t.pc = 0xC001) = true := by decide

/-- V-L21 (R212): `LSR $2000`. -/
theorem test_lsr_l21 :
    completes (step (b0 [0x4E, 0x00, 0x20] [(0x2000, 0xFE)] 0x00))
      (fun t => t.ps = 0x00 ∧ t.cell 0x2000 = 0x7F ∧ t.pc = 0xC003) = true := by decide

/-- V-L22 (R213): `ROL A`. -/
theorem test_rol_l22 :
    completes (step { b0 [0x2A] [] 0x01 with a := 0x80 })
      (fun t => t.a = 0x01 ∧ t.ps = 0x01 ∧ t.pc = 0xC001) = true := by decide

/-- V-L23 (R213): `ROL $40`. -/
theorem test_rol_l23 :
    completes (step (b0 [0x26, 0x40] [(0x0040, 0x80)] 0x00))
      (fun t => t.ps = 0x03 ∧ t.cell 0x0040 = 0x00 ∧ t.pc = 0xC002) = true := by decide

/-- V-L24 (R214): `ROR A`. -/
theorem test_ror_l24 :
    completes (step { b0 [0x6A] [] 0x01 with a := 0x01 })
      (fun t => t.a = 0x80 ∧ t.ps = 0x81 ∧ t.pc = 0xC001) = true := by decide

/-- V-L25 (R214): `ROR $1234,X`. -/
theorem test_ror_l25 :
    completes (step (b0 [0x7E, 0x34, 0x12] [(0x1256, 0x01)] 0x00))
      (fun t => t.ps = 0x03 ∧ t.cell 0x1256 = 0x00 ∧ t.pc = 0xC003) = true := by decide

/-- V-L26 (R215): `RRF $40`. -/
theorem test_rrf_l26 :
    completes (step (b0 [0x82, 0x40] [(0x0040, 0xA5)] 0x01))
      (fun t => t.ps = 0x01 ∧ t.cell 0x0040 = 0x5A ∧ t.pc = 0xC002) = true := by decide

/-- V-B1 (R231): `CLB 0,A`. -/
theorem test_clb_b1 :
    completes (step { b0 [0x1B] [] 0x00 with a := 0xFF })
      (fun t => t.a = 0xFE ∧ t.ps = 0x00 ∧ t.pc = 0xC001) = true := by decide

/-- V-B2 (R231): `CLB 7,$40`. -/
theorem test_clb_b2 :
    completes (step (b0 [0xFF, 0x40] [(0x0040, 0x80)] 0x00))
      (fun t => t.ps = 0x00 ∧ t.cell 0x0040 = 0x00 ∧ t.pc = 0xC002) = true := by decide

/-- V-B4 (R232): `SEB 7,A`. -/
theorem test_seb_b4 :
    completes (step { b0 [0xEB] [] 0x00 with a := 0x00 })
      (fun t => t.a = 0x80 ∧ t.ps = 0x00 ∧ t.pc = 0xC001) = true := by decide

/-- V-B5 (R232): `SEB 0,$40`. -/
theorem test_seb_b5 :
    completes (step (b0 [0x0F, 0x40] [(0x0040, 0xFE)] 0x00))
      (fun t => t.ps = 0x00 ∧ t.cell 0x0040 = 0xFF ∧ t.pc = 0xC002) = true := by decide

/-- V-B7 (R236): `CLC`. -/
theorem test_clc_b7 : completes (step (b0 [0x18] [] 0x01)) (fun t => t.ps = 0x00 ∧ t.pc = 0xC001) = true := by decide

/-- V-B8 (R237): `SEC`. -/
theorem test_sec_b8 : completes (step (b0 [0x38] [] 0x00)) (fun t => t.ps = 0x01 ∧ t.pc = 0xC001) = true := by decide

/-- V-B9 (R238): `CLD`. -/
theorem test_cld_b9 : completes (step (b0 [0xD8] [] 0x08)) (fun t => t.ps = 0x00 ∧ t.pc = 0xC001) = true := by decide

/-- V-B10 (R239): `SED`. -/
theorem test_sed_b10 : completes (step (b0 [0xF8] [] 0x00)) (fun t => t.ps = 0x08 ∧ t.pc = 0xC001) = true := by decide

/-- V-B11 (R240): `CLI`. -/
theorem test_cli_b11 : completes (step (b0 [0x58] [] 0x04)) (fun t => t.ps = 0x00 ∧ t.pc = 0xC001) = true := by decide

/-- V-B12 (R241): `SEI`. -/
theorem test_sei_b12 : completes (step (b0 [0x78] [] 0x00)) (fun t => t.ps = 0x04 ∧ t.pc = 0xC001) = true := by decide

/-- V-B13 (R242): `CLT`. -/
theorem test_clt_b13 : completes (step (b0 [0x12] [] 0x20)) (fun t => t.ps = 0x00 ∧ t.pc = 0xC001) = true := by decide

/-- V-B14 (R243): `SET`. -/
theorem test_set_b14 : completes (step (b0 [0x32] [] 0x00)) (fun t => t.ps = 0x20 ∧ t.pc = 0xC001) = true := by decide

/-- V-B15 (R244): `CLV`. -/
theorem test_clv_b15 : completes (step (b0 [0xB8] [] 0x40)) (fun t => t.ps = 0x00 ∧ t.pc = 0xC001) = true := by decide

/-- V-C1 (R251): `JMP $1234`. -/
theorem test_jmp_c1 :
    completes (step (b0 [0x4C, 0x34, 0x12] [] 0x00)) (fun t => t.ps = 0x00 ∧ t.pc = 0x1234) = true := by decide

/-- V-C2 (R252): `JMP`. -/
theorem test_jmp_c2 :
    completes (step (b0 [0x6C, 0xFE, 0x20] [(0x20FE, 0x78), (0x20FF, 0x56)] 0x00))
      (fun t => t.ps = 0x00 ∧ t.pc = 0x5678) = true := by decide

/-- V-C3 (R252, R356): `JMP`. -/
theorem test_jmp_c3 :
    refuses (step (b0 [0x6C, 0xFF, 0x20] [(0x2000, 0x9A), (0x20FF, 0x78), (0x2100, 0x56)] 0x00)) (.jmpIndirectPageEnd 0x20FF) = true := by decide

/-- V-C4 (R253): `JMP`. -/
theorem test_jmp_c4 :
    completes (step (b0 [0xB2, 0xFE] [(0x00FE, 0x00), (0x00FF, 0x80)] 0x00))
      (fun t => t.ps = 0x00 ∧ t.pc = 0x8000) = true := by decide

/-- V-C6 (R121, R253): `JMP`. -/
theorem test_jmp_c6 :
    completes (step { b0 [0xB2, 0xFF] [(0x0000, 0x80), (0x00FF, 0x00), (0x0100, 0x90)] 0x00 with
        product := { conventions with zpPtrWrap := .wrap } })
      (fun t => t.ps = 0x00 ∧ t.pc = 0x8000) = true := by decide

/-- V-C7 (R121, R253): `JMP`. -/
theorem test_jmp_c7 :
    completes (step { b0 [0xB2, 0xFF] [(0x0000, 0x80), (0x00FF, 0x00), (0x0100, 0x90)] 0x00 with
        product := { conventions with zpPtrWrap := .carry } })
      (fun t => t.ps = 0x00 ∧ t.pc = 0x9000) = true := by decide

/-- V-C9 (R255): `BRA *`. -/
theorem test_bra_c9 :
    completes (step (b0 [0x80, 0xFE] [] 0x00)) (fun t => t.ps = 0x00 ∧ t.pc = 0xC000) = true := by decide

/-- V-C11 (R255): `BRA rr = 0x80`. -/
theorem test_bra_c11 :
    completes (step (b0 [0x80, 0x80] [] 0x00)) (fun t => t.ps = 0x00 ∧ t.pc = 0xBF82) = true := by decide

/-- V-C14 (R256): `BCC rr = 0x10`. -/
theorem test_bcc_c14 :
    completes (step (b0 [0x90, 0x10] [] 0x00)) (fun t => t.ps = 0x00 ∧ t.pc = 0xC012) = true := by decide

/-- V-C16 (R257): `BCS rr = 0x10`. -/
theorem test_bcs_c16 :
    completes (step (b0 [0xB0, 0x10] [] 0x01)) (fun t => t.ps = 0x01 ∧ t.pc = 0xC012) = true := by decide

/-- V-C18 (R258): `BEQ rr = 0x10`. -/
theorem test_beq_c18 :
    completes (step (b0 [0xF0, 0x10] [] 0x02)) (fun t => t.ps = 0x02 ∧ t.pc = 0xC012) = true := by decide

/-- V-C20 (R259): `BNE rr = 0x10`. -/
theorem test_bne_c20 :
    completes (step (b0 [0xD0, 0x10] [] 0x00)) (fun t => t.ps = 0x00 ∧ t.pc = 0xC012) = true := by decide

/-- V-C22 (R260): `BMI rr = 0x10`. -/
theorem test_bmi_c22 :
    completes (step (b0 [0x30, 0x10] [] 0x80)) (fun t => t.ps = 0x80 ∧ t.pc = 0xC012) = true := by decide

/-- V-C24 (R261): `BPL rr = 0x10`. -/
theorem test_bpl_c24 :
    completes (step (b0 [0x10, 0x10] [] 0x00)) (fun t => t.ps = 0x00 ∧ t.pc = 0xC012) = true := by decide

/-- V-C26 (R262): `BVC rr = 0x10`. -/
theorem test_bvc_c26 :
    completes (step (b0 [0x50, 0x10] [] 0x00)) (fun t => t.ps = 0x00 ∧ t.pc = 0xC012) = true := by decide

/-- V-C28 (R263): `BVS rr = 0x10`. -/
theorem test_bvs_c28 :
    completes (step (b0 [0x70, 0x10] [] 0x40)) (fun t => t.ps = 0x40 ∧ t.pc = 0xC012) = true := by decide

/-- V-C15 (R256): `BCC rr = 0x10`. -/
theorem test_bcc_c15 :
    completes (step (b0 [0x90, 0x10] [] 0x01)) (fun t => t.ps = 0x01 ∧ t.pc = 0xC002) = true := by decide

/-- V-C17 (R257): `BCS rr = 0x10`. -/
theorem test_bcs_c17 :
    completes (step (b0 [0xB0, 0x10] [] 0x00)) (fun t => t.ps = 0x00 ∧ t.pc = 0xC002) = true := by decide

/-- V-C19 (R258): `BEQ rr = 0x10`. -/
theorem test_beq_c19 :
    completes (step (b0 [0xF0, 0x10] [] 0x00)) (fun t => t.ps = 0x00 ∧ t.pc = 0xC002) = true := by decide

/-- V-C21 (R259): `BNE rr = 0x10`. -/
theorem test_bne_c21 :
    completes (step (b0 [0xD0, 0x10] [] 0x02)) (fun t => t.ps = 0x02 ∧ t.pc = 0xC002) = true := by decide

/-- V-C23 (R260): `BMI rr = 0x10`. -/
theorem test_bmi_c23 :
    completes (step (b0 [0x30, 0x10] [] 0x00)) (fun t => t.ps = 0x00 ∧ t.pc = 0xC002) = true := by decide

/-- V-C25 (R261): `BPL rr = 0x10`. -/
theorem test_bpl_c25 :
    completes (step (b0 [0x10, 0x10] [] 0x80)) (fun t => t.ps = 0x80 ∧ t.pc = 0xC002) = true := by decide

/-- V-C27 (R262): `BVC rr = 0x10`. -/
theorem test_bvc_c27 :
    completes (step (b0 [0x50, 0x10] [] 0x40)) (fun t => t.ps = 0x40 ∧ t.pc = 0xC002) = true := by decide

/-- V-C29 (R263): `BVS rr = 0x10`. -/
theorem test_bvs_c29 :
    completes (step (b0 [0x70, 0x10] [] 0x00)) (fun t => t.ps = 0x00 ∧ t.pc = 0xC002) = true := by decide

/-- V-C30 (R264): `BBC 0,A rr = 0x05`. -/
theorem test_bbc_c30 :
    completes (step { b0 [0x13, 0x05] [] 0x00 with a := 0xFE })
      (fun t => t.ps = 0x00 ∧ t.pc = 0xC007) = true := by decide

/-- V-C31 (R264): `BBC 7,$40 rr = 0xFD`. -/
theorem test_bbc_c31 :
    completes (step (b0 [0xF7, 0x40, 0xFD] [(0x0040, 0x7F)] 0x00))
      (fun t => t.ps = 0x00 ∧ t.pc = 0xC000) = true := by decide

/-- V-C33 (R265): `BBS 3,A rr = 0x10`. -/
theorem test_bbs_c33 :
    completes (step { b0 [0x63, 0x10] [] 0x00 with a := 0x08 })
      (fun t => t.ps = 0x00 ∧ t.pc = 0xC012) = true := by decide

/-- V-C35 (R265): `BBS 6,$FF rr = 0x7F`. -/
theorem test_bbs_c35 :
    completes (step (b0 [0xC7, 0xFF, 0x7F] [(0x00FF, 0x40)] 0x00))
      (fun t => t.ps = 0x00 ∧ t.pc = 0xC082) = true := by decide

/-- V-C36 (R267): `JSR $D000`. -/
theorem test_jsr_c36 :
    completes (step (b0 [0x20, 0x00, 0xD0] [] 0x00))
      (fun t => t.sp = 0xFD ∧ t.ps = 0x00 ∧ t.cell 0x01FE = 0x02 ∧ t.cell 0x01FF = 0xC0 ∧ t.pc = 0xD000) = true := by decide

/-- V-C37 (R268): `JSR \$FF80`. -/
theorem test_jsr_c37 :
    completes (step { b0 [0x22, 0x80] [] 0x00 with sp := 0x00 })
      (fun t => t.sp = 0xFE ∧ t.ps = 0x00 ∧ t.cell 0x0100 = 0xC0 ∧ t.cell 0x01FF = 0x01 ∧ t.pc = 0xFF80) = true := by decide

/-- V-C39 (R269): `JSR`. -/
theorem test_jsr_c39 :
    completes (step { b0 [0x02, 0xFE] [(0x00FE, 0x34), (0x00FF, 0x12)] 0x00 with
        product := { conventions with stackPage := .page0 } })
      (fun t => t.sp = 0xFD ∧ t.ps = 0x00 ∧ t.cell 0x00FE = 0x01 ∧ t.cell 0x00FF = 0xC0 ∧ t.pc = 0xC001) = true := by decide

/-- V-C40 (R270): `RTS`. -/
theorem test_rts_c40 :
    completes (step { b0 [0x60] [(0x01FE, 0x02), (0x01FF, 0xC0)] 0x00 with sp := 0xFD })
      (fun t => t.sp = 0xFF ∧ t.ps = 0x00 ∧ t.pc = 0xC003) = true := by decide

/-- V-C41 (R270): `RTS`. -/
theorem test_rts_c41 :
    completes (step { b0 [0x60] [(0x01FE, 0xFF), (0x01FF, 0xFF)] 0x00 with sp := 0xFD })
      (fun t => t.sp = 0xFF ∧ t.ps = 0x00 ∧ t.pc = 0x0000) = true := by decide

/-- V-C42 (R271): `RTI`. -/
theorem test_rti_c42 :
    completes (step { b0 [0x40] [(0x01FD, 0x23), (0x01FE, 0x45), (0x01FF, 0xC1)] 0x00 with sp := 0xFC })
      (fun t => t.sp = 0xFF ∧ t.ps = 0x23 ∧ t.pc = 0xC145) = true := by decide

/-- V-I1 (R280): `BRK`. -/
theorem test_brk_i1 :
    completes (step (b0 [0x00] [(0xFFDC, 0x00), (0xFFDD, 0xE0)] 0x81))
      (fun t => t.sp = 0xFC ∧ t.ps = 0x95 ∧ t.cell 0x01FD = 0x91 ∧ t.cell 0x01FE = 0x02 ∧
        t.cell 0x01FF = 0xC0 ∧ t.pc = 0xE000) = true := by decide

/-- V-I2 (R280): `BRK`. -/
theorem test_brk_i2 :
    completes (step (b0 [0x00] [(0xFFDC, 0x34), (0xFFDD, 0x12)] 0x2C))
      (fun t => t.sp = 0xFC ∧ t.ps = 0x3C ∧ t.cell 0x01FD = 0x3C ∧ t.cell 0x01FE = 0x02 ∧
        t.cell 0x01FF = 0xC0 ∧ t.pc = 0x1234) = true := by decide

/-- V-I4 (R286): `NOP`. -/
theorem test_nop_i4 : completes (step (b0 [0xEA] [] 0x83)) (fun t => t.ps = 0x83 ∧ t.pc = 0xC001) = true := by decide

/-- V-I5 (R284): `WIT`. -/
theorem test_wit_i5 :
    completes (step (b0 [0xC2] [] 0x00))
      (fun t => t.ps = 0x00 ∧ t.pc = 0xC001 ∧ t.runState = .wait) = true := by decide

/-- V-I6 (R283): `STP`. -/
theorem test_stp_i6 :
    completes (step (b0 [0x42] [] 0x00))
      (fun t => t.ps = 0x00 ∧ t.pc = 0xC001 ∧ t.runState = .stop) = true := by decide

/-- V-A7, V-A8, V-A16, V-A17 (R182, R184): result and carry of decimal arithmetic. -/
theorem test_decimal :
    (addDecimal 0 0x99 0x01 false).r = 0x00 ∧ (addDecimal 0 0x99 0x01 false).c = true ∧
    (addDecimal 0 0x15 0x27 true).r = 0x43 ∧ (addDecimal 0 0x15 0x27 true).c = false ∧
    (subDecimal 0 0x00 0x01 true).r = 0x99 ∧ (subDecimal 0 0x00 0x01 true).c = false ∧
    (subDecimal 0 0x42 0x15 false).r = 0x26 ∧ (subDecimal 0 0x42 0x15 false).c = true := by decide

/-- R283, after V-I6: with STP_MODE = nop the run state stays Running. -/
theorem test_stp_nop :
    completes (step { b0 [0x42] [] 0x00 with product := { conventions with stpMode := .nop } })
      (fun t => t.runState = .running ∧ t.pc = 0xC001) = true := by decide

/-- The cycle counts of R363 and R364: the examples of 70_reset_and_hazards.md's table for one mode each. -/
theorem test_cycles :
    cycles (.ldaIndX 0) (b0 [] [] 0x00) = 6 ∧ cycles (.ldaIndX 0) (b0 [] [] 0x20) = 8 ∧
    cycles (.bne 0) (b0 [] [] 0x00) = 4 ∧ cycles (.bne 0) (b0 [] [] 0x02) = 2 ∧ cycles .brk (b0 [] [] 0x00) = 7 ∧
    cycles (.divZpX 0) (b0 [] [] 0x00) = 16 := by decide

/-! ### Interrupts (section 2.7 of 95_test_vectors.md) -/

/-- Source S1. -/
def source1 : IrqSource := ⟨2, 0xFFF4, 0x003C, 0, 0x003E, 0, true⟩

/-- Source S2. -/
def source2 : IrqSource := ⟨1, 0xFFF2, 0x003C, 1, 0x003E, 1, false⟩

/-- A boundary at 0xC123 with these request and enable bytes, PS and run state. -/
def boundary (request enable ps : Byte) (r : RunState) : State :=
  { b0 [] [(0x003C, request), (0x003E, enable), (0xFFF5, 0xE0), (0xFFF3, 0xE1)] ps with
    pc := 0xC123
    runState := r
    product := { conventions with irqSources := [source1, source2] } }

/-- V-X1 (R310, R312). -/
theorem test_interrupt_x1 :
    completes (step (boundary 0x01 0x01 0x81 .running)) (fun t =>
      t.cell 0x01FF = 0xC1 ∧ t.cell 0x01FE = 0x23 ∧ t.cell 0x01FD = 0x81 ∧ t.sp = 0xFC ∧ t.ps = 0x85 ∧
      t.cell 0x003C = 0x00 ∧ t.pc = 0xE000) = true := by decide

/-- V-X2, V-X3 (R310): nothing is accepted. -/
theorem test_interrupt_x2 :
    (boundary 0x01 0x01 0x04 .running).acceptable = none ∧ (boundary 0x01 0x00 0x00 .running).acceptable = none := by
  decide

/-- V-X4 (R315, R312): the higher priority. -/
theorem test_interrupt_x4 :
    completes (step (boundary 0x03 0x03 0x00 .running)) (fun t =>
      t.cell 0x003C = 0x02 ∧ t.pc = 0xE000 ∧ t.ps = 0x04) = true := by decide

/-- V-X5 (R313, R312): B is 0 in the frame and live. -/
theorem test_interrupt_x5 :
    completes (step (boundary 0x02 0x02 0x10 .running)) (fun t =>
      t.cell 0x01FD = 0x00 ∧ t.ps = 0x04 ∧ t.pc = 0xE100) = true := by decide

/-- V-X6, V-X8 (R325): Wait and Stop end. -/
theorem test_interrupt_wakes :
    completes (step (boundary 0x02 0x02 0x00 .wait)) (fun t => t.pc = 0xE100 ∧ t.runState = .running) = true ∧
    completes (step (boundary 0x01 0x01 0x00 .stop)) (fun t => t.pc = 0xE000 ∧ t.runState = .running) = true := by
  decide

/-- V-X7, V-X9 (R325, R326): Stop with an internal source only, Wait with I = 1. -/
theorem test_interrupt_sleeps :
    completes (step (boundary 0x02 0x02 0x00 .stop)) (fun t => t = boundary 0x02 0x02 0x00 .stop) = true ∧
    completes (step (boundary 0x01 0x01 0x04 .wait)) (fun t => t = boundary 0x01 0x01 0x04 .wait) = true := by decide

/-- V-X10 (R281, R316): BRK while I is 1 goes through the pending source's vector and leaves its request bit. -/
theorem test_brk_x10 :
    completes (exec .brk (boundary 0x01 0x01 0x04 .running)) (fun t =>
      t.cell 0x01FF = 0xC1 ∧ t.cell 0x01FE = 0x25 ∧ t.cell 0x01FD = 0x14 ∧ t.ps = 0x14 ∧ t.pc = 0xE000 ∧
      t.cell 0x003C = 0x01) = true := by decide

/-! ### The hazard rules (R350, R352, R355), devices (R72, R73, R75) and the environment (R50) -/

/-- V-D27, V-D26 (R350). -/
theorem test_plp_successor :
    refuses (step { b0 [0xA9, 0x00] [] 0x00 with lastWasPlp := true }) .plpSuccessor = true ∧
    completes (step { b0 [0xEA] [] 0x00 with lastWasPlp := true }) (fun t => t.lastWasPlp = false) = true := by decide

/-- V-A10 (R355). -/
theorem test_decimal_successor :
    refuses (step { b0 [0x18] [] 0x08 with lastWasDecimal := true }) .decimalSuccessor = true ∧
    completes (step { b0 [0xF8] [] 0x08 with lastWasDecimal := true }) (fun t => t.lastWasDecimal = false) = true := by
  decide

/-- R352: a bit of the request byte just written by CLB 0; the same bit is refused, another is not. -/
theorem test_request_bit_successor :
    completes (exec (.clbZp 0 0x3C) (boundary 0x01 0x00 0x00 .running)) (fun t => t.touched = some (0x003C, [0])) = true ∧
    requestHazard (.bbsZp 0 0x3C 0x10) { b0 [] [] 0x00 with touched := some (0x003C, [0]) } = true ∧
    requestHazard (.bbsZp 1 0x3C 0x10) { b0 [] [] 0x00 with touched := some (0x003C, [0]) } = false := by decide

/-- R350: after PLP the opcode alone is tested, also an undefined one. -/
theorem test_plp_then_undefined :
    refuses (step { b0 [0x04] [] 0x00 with lastWasPlp := true }) .plpSuccessor = true := by decide

/-- A product with an address of every kind. -/
def board : Product :=
  { conventions with
    irqSources := [source1, source2]
    memoryMap :=
      [⟨0x0000, 0x30, .ram⟩, ⟨0x0030, 1, .portLatch 0x0031⟩, ⟨0x0031, 1, .portDirection⟩, ⟨0x0032, 1, .external⟩,
        ⟨0x003C, 1, .control⟩, ⟨0x003E, 1, .control⟩, ⟨0x0040, 0x01C0, .ram⟩, ⟨0xC000, 0x4000, .rom⟩] }

/-- The board in the start state B0. -/
def boardState (code : List Byte) (cells : List (Addr × Byte)) : State := { b0 code cells 0x00 with product := board }

/-- R72: bits 7 to 4 are outputs and read the latch, the others read the pins. -/
theorem test_port_read :
    completes (exec (.ldaZp 0x30) { boardState [] [(0x0030, 0xA5), (0x0031, 0xF0)] with inputs := [(0x30, 0x3C)] })
      (fun t => t.a = 0xAC) = true := by decide

/-- R75: a write to ROM is ignored; an unmapped address has no meaning. -/
theorem test_rom_and_unmapped :
    completes (exec (.staAbs 0xC000) (boardState [] [(0xC000, 0x77)])) (fun t => t.cell 0xC000 = 0x77) = true ∧
    faults (exec (.staAbs 0x0200) (boardState [] [])) (.unmappedAccess 0x0200) = true := by decide

/-- R142, R140: without HAS_MULDIV the opcode E2 is undefined, though nothing lies behind its operand's address. -/
theorem test_absent_div :
    refuses (step { boardState [] [(0x01FF, 0xE2)] with pc := 0x01FF, product := { board with hasMulDiv := false } })
      (.undefinedOpcode 0xE2 0x01FF) = true := by decide

/-- R75: a write to another device's register is handed to it. -/
theorem test_device_write :
    completes (exec (.ldmZp 0x5A 0x32) (boardState [] [])) (fun t => t.cell 0x0032 = 0x5A ∧ t.cell 0x0033 = 0x00) =
      true := by decide

/-- R50 (b): of a control register all bits but request and enable bits follow the device. -/
theorem test_device_turn :
    completes (step { boardState [] [(0x003C, 0x01)] with env := [.deviceInput 0x003C 0xF2] }) (fun t =>
      t.cell 0x003C = 0xF1) = true ∧
    completes (step { boardState [] [(0x0030, 0x01)] with env := [.deviceInput 0x0030 0xF2] }) (fun t =>
      t.input 0x0030 = 0xF2 ∧ t.cell 0x0030 = 0x01) = true := by decide

/-- R53: the run ends at the first boundary with PC at END_PC, and what is there is not fetched; the refusal of what is there
is another outcome. -/
theorem test_run_ends :
    (match runTo 0xC001 9 (b0 [0xE8, 0x04] [] 0x00) with | .ended t => decide (t.x = 0x23 ∧ t.pc = 0xC001) | _ => false) =
      true ∧
    runTo 0xD000 9 (b0 [0xE8, 0x04] [] 0x00) = .refused (.undefinedOpcode 0x04 0xC001) := by decide

/-- R53: WIT with no wake-up is stuck, with a reset to come it is not; `BRA *` is neither ended nor stuck. -/
theorem test_run_stuck :
    (match runTo 0xD000 9 (b0 [0xC2] [] 0x00) with | .stuck t => decide (t.runState = .wait) | _ => false) = true ∧
    { b0 [] [] 0x00 with runState := .wait, env := [.cpu, .reset] }.stuck = false ∧
    { b0 [] [] 0x00 with runState := .wait, env := [.cpu, .deviceInput 0 1] }.stuck = true ∧
    (match runTo 0xD000 3 (b0 [0x80, 0xFE] [] 0x00) with | .unfinished _ => true | _ => false) = true := by decide

/-- R340, R341: reset as a turn of the environment. -/
theorem test_reset_x11 :
    completes (step { boardState [] [(0x0031, 0xF0), (0x0040, 0x12)] with env := [.reset], runState := .stop, pc := 7 })
      (fun t => t.pc = 0xC000 ∧ t.flag .i = true ∧ t.runState = .running ∧ t.cell 0x0031 = 0x00 ∧
        t.cell 0x0040 = 0x12) = true := by decide

/-- R50: a request bit set by its device. -/
theorem test_set_request :
    completes (step { boundary 0x00 0x03 0x00 .running with env := [.setRequest 1] }) (fun t =>
      t.cell 0x003C = 0x02 ∧ t.pc = 0xC123 ∧ t.acceptable = some source2) = true := by decide

/-- A word placed is the instruction the next step runs. -/
theorem test_withFetchWord :
    completes (step (State.reset.withFetchWord 16 0x5AA9)) (fun t => t.a = 0x5A ∧ t.pc = 0xC002) = true := by decide

/-! ### The hypotheses of each statement can be met -/

/-- What completes has a next state. -/
theorem exists_of_completes {o : Host.Outcome State Fault Refusal} {p : State → Bool} (h : completes o p = true) :
    ∃ t, o = .next t ∧ p t = true := by
  cases o with
  | next t => exact ⟨t, rfl, h⟩
  | fault _ => cases h
  | refused _ => cases h

theorem test_hyp_DecodeEncode :
    (Instr.bbsZp 7 0xFF 0x80).wf = true ∧ (Instr.clbAcc 7).wf = true ∧ (Instr.jsrSp 0xFF00).wf = true := by decide

theorem test_hyp_DecodeReadsEveryByte :
    decode [0xE7, 0xFF, 0x80, 0x00] = .ok (.bbsZp 7 0xFF 0x80) ∧ decode [0x22, 0x00] = .ok (.jsrSp 0xFF00) :=
  ⟨rfl, rfl⟩

/-- An instruction across the top of the address space. -/
def atTop : State := { b0 [] [(0xFFFF, 0xA9), (0x0000, 0x5A)] 0x00 with pc := 0xFFFF }

/-- With no request bit written, the two other shadows say what is permitted. -/
theorem permits_of_untouched {s : State} {i : Instr} (h : s.touched = none) (hp : s.lastWasPlp = true → i = .nop)
    (hd : s.lastWasDecimal = true → i ≠ .sec ∧ i ≠ .clc ∧ i ≠ .cld) : s.permits i :=
  ⟨hp, hd, fun _ _ _ _ _ h' => by rw [h] at h'; cases h'⟩

theorem test_hyp_StepRunsDecoded :
    atTop.cpuTurn ∧ atTop.runState = .running ∧ atTop.acceptable = none ∧
    decode atTop.turnTaken.codeBytes = .ok (.ldaImm 0x5A) ∧
    (∀ k, k < instrLength (.ldaImm 0x5A) → atTop.mapped (atTop.codeAddr k) = true) ∧
    (mnemonic (.ldaImm 0x5A) = .mul ∨ mnemonic (.ldaImm 0x5A) = .div → atTop.product.hasMulDiv = true) ∧
    atTop.permits (.ldaImm 0x5A) :=
  ⟨.inl rfl, rfl, by decide, rfl, by decide, by decide, permits_of_untouched rfl (by decide) (by decide)⟩

/-- The board with PC at an address. -/
def boardAt (pc : Addr) (cells : List (Addr × Byte)) : State := { boardState [] cells with pc := pc }

theorem test_hyp_FetchStops_unmapped :
    (boardAt 0xBFFF []).cpuTurn ∧ (boardAt 0xBFFF []).runState = .running ∧ (boardAt 0xBFFF []).acceptable = none ∧
    (boardAt 0xBFFF []).mapped (boardAt 0xBFFF []).pc = false :=
  ⟨.inl rfl, rfl, by decide, by decide⟩

theorem test_hyp_FetchStops_undefined :
    (boardAt 0xC000 [(0xC000, 0x04)]).cpuTurn ∧ (boardAt 0xC000 [(0xC000, 0x04)]).acceptable = none ∧
    (boardAt 0xC000 [(0xC000, 0x04)]).mapped (boardAt 0xC000 [(0xC000, 0x04)]).pc = true ∧
    decodeOp ((boardAt 0xC000 [(0xC000, 0x04)]).turnTaken.byteAt .opcode 0xC000) = none ∧
    (boardAt 0xC000 [(0xC000, 0x04)]).lastWasPlp = false :=
  ⟨.inl rfl, by decide, by decide, rfl, rfl⟩

/-- The board without HAS_MULDIV, the opcode of MUL at PC and nothing behind the address of its operand. -/
def withoutMul : State := { boardAt 0x01FF [(0x01FF, 0x62)] with product := { board with hasMulDiv := false } }

theorem test_hyp_FetchStops_absent :
    withoutMul.cpuTurn ∧ withoutMul.runState = .running ∧ withoutMul.acceptable = none ∧
    withoutMul.mapped withoutMul.pc = true ∧ withoutMul.lastWasPlp = false ∧ withoutMul.product.hasMulDiv = false ∧
    withoutMul.turnTaken.byteAt .opcode withoutMul.pc = 0x62 ∧ withoutMul.mapped (withoutMul.codeAddr 1) = false :=
  ⟨.inl rfl, rfl, by decide⟩

theorem test_hyp_FetchStops_plp :
    ({ boardAt 0xC000 [(0xC000, 0x04)] with lastWasPlp := true } : State).mapped 0xC000 = true ∧
    ({ boardAt 0xC000 [(0xC000, 0x04)] with lastWasPlp := true } : State).acceptable = none ∧
    decodeOp (({ boardAt 0xC000 [(0xC000, 0x04)] with lastWasPlp := true } : State).turnTaken.byteAt .opcode 0xC000) =
      none :=
  ⟨by decide, by decide, rfl⟩

theorem test_hyp_FetchStops_operands :
    (decode (boardAt 0x01FF [(0x01FF, 0xA9)]).turnTaken.codeBytes = .ok (.ldaImm 0x00) ∧
      (boardAt 0x01FF [(0x01FF, 0xA9)]).mapped ((boardAt 0x01FF [(0x01FF, 0xA9)]).codeAddr 0) = true ∧
      (boardAt 0x01FF [(0x01FF, 0xA9)]).mapped ((boardAt 0x01FF [(0x01FF, 0xA9)]).codeAddr 1) = false) ∧
    (decode (boardAt 0x01FE [(0x01FE, 0xAD)]).turnTaken.codeBytes = .ok (.ldaAbs 0x0000) ∧
      (∀ j, j < 2 → (boardAt 0x01FE [(0x01FE, 0xAD)]).mapped ((boardAt 0x01FE [(0x01FE, 0xAD)]).codeAddr j) = true) ∧
      (boardAt 0x01FE [(0x01FE, 0xAD)]).mapped ((boardAt 0x01FE [(0x01FE, 0xAD)]).codeAddr 2) = false) :=
  ⟨⟨rfl, by decide, by decide⟩, rfl, by decide, by decide⟩

/-- B0 with one instruction at PC and these shadows. -/
def shadowed (code : List Byte) (plp dec : Bool) (touched : Option (Addr × List Nat)) : State :=
  { b0 code [] 0x00 with
    lastWasPlp := plp
    lastWasDecimal := dec
    touched := touched }

theorem test_hyp_HazardRefusals_plp :
    (shadowed [0x18] true false none).cpuTurn ∧ (shadowed [0x18] true false none).acceptable = none ∧
    (shadowed [0x18] true false none).mapped (shadowed [0x18] true false none).pc = true ∧
    (shadowed [0x18] true false none).turnTaken.byteAt .opcode 0xC000 = 0x18 ∧
    (shadowed [0xEA] true false none).permits .nop ∧
    decode (shadowed [0xEA] true false none).turnTaken.codeBytes = .ok .nop :=
  ⟨.inl rfl, by decide, by decide, by decide,
    permits_of_untouched rfl (by decide) (by decide), rfl⟩

theorem test_hyp_HazardRefusals_decimal :
    (shadowed [0x18] false true none).turnTaken.byteAt .opcode 0xC000 = 0x18 ∧
    (shadowed [0x38] false true none).turnTaken.byteAt .opcode 0xC000 = 0x38 ∧
    (shadowed [0xD8] false true none).turnTaken.byteAt .opcode 0xC000 = 0xD8 ∧
    (shadowed [0xD8] false true none).lastWasPlp = false ∧ (shadowed [0xD8] false true none).acceptable = none ∧
    (shadowed [0xF8] false true none).permits .sed ∧
    decode (shadowed [0xF8] false true none).turnTaken.codeBytes = .ok .sed :=
  ⟨by decide, by decide, by decide, rfl, by decide,
    permits_of_untouched rfl (by decide) (by decide), rfl⟩

theorem test_hyp_HazardRefusals_request :
    decode (shadowed [0x17, 0x3C, 0x10] false false (some (0x003C, [0]))).turnTaken.codeBytes =
      .ok (.bbcZp 0 0x3C 0x10) ∧
    decode (shadowed [0xE7, 0xFF, 0x10] false false (some (0x00FF, [7]))).turnTaken.codeBytes =
      .ok (.bbsZp 7 0xFF 0x10) ∧
    zext16 0x3C = 0x003C ∧ zext16 0xFF = 0x00FF ∧ 0 ∈ [0] ∧ 7 ∈ [7] ∧ 1 ∉ [0] ∧ zext16 0x3D ≠ 0x003C :=
  ⟨rfl, rfl, by decide⟩

theorem test_hyp_StepInterrupts :
    (boundary 0x01 0x01 0x00 .running).cpuTurn ∧ (boundary 0x01 0x01 0x00 .running).acceptable = some source1 ∧
    (boundary 0x01 0x01 0x00 .stop).acceptable = some source1 ∧ (boundary 0x02 0x02 0x00 .stop).standsStill ∧
    (boundary 0x01 0x01 0x04 .wait).standsStill :=
  ⟨.inl rfl, by decide, by decide, ⟨by decide, by decide⟩, by decide, by decide⟩

theorem test_hyp_EnvironmentTurns :
    ({ boardState [] [] with env := [.setRequest 1] } : State).product.irqSources[1]? = some source2 ∧
    (boardState [] []).kind 0x0032 = .external ∧ (boardState [] []).kind 0x0030 = .portLatch 0x0031 ∧
    (boardState [] []).kind 0x003C = .control ∧ (boardState [] []).kind 0x0000 = .ram ∧
    (boardState [] []).kind 0xFFFF = .rom ∧ (boardState [] []).kind 0x0031 = .portDirection ∧
    (boardState [] []).kind 0x0033 = .unmapped ∧ 1 ∈ requestBitsAt board 0x003C ∧ 1 ∉ enableBitsAt board 0x003C := by decide

theorem test_hyp_SecondPointerByte :
    (0xFE : Byte) ≠ 0xFF ∧ ({ conventions with zpPtrWrap := .wrap } : Product).zpPtrWrap = .wrap ∧
    ({ conventions with zpPtrWrap := .carry } : Product).zpPtrWrap = .carry ∧ conventions.zpPtrWrap = .refuse ∧
    Product.standard.zpPtrWrap = .unstated := by decide

/-- B0 in a product whose zero-page words wrap. -/
def wrapping (cells : List (Addr × Byte)) : State :=
  { b0 [] cells 0x00 with product := { conventions with zpPtrWrap := .wrap } }

theorem test_hyp_IndirectAddresses :
    zpNext (0xDD + (wrapping []).x) (wrapping []) = .next 0x0000 ∧ zpNext 0xFE (wrapping []) = .next 0x00FF ∧
    (wrapping []).mapped 0x00FF = true ∧ (wrapping []).mapped 0x0000 = true ∧
    (b0 [] [] 0x00).product.zpPtrWrap = .refuse ∧ 0xDD + (b0 [] [] 0x00).x = 0xFF :=
  ⟨rfl, rfl, by decide, by decide, by decide, by decide⟩

/-- The low byte of the pointer unmapped, and the high byte only. -/
theorem test_hyp_IndirectAddresses_unmapped :
    zpNext (0x11 + (boardState [] []).x) (boardState [] []) = .next 0x0034 ∧
    (boardState [] []).mapped (zext16 (0x11 + (boardState [] []).x)) = false ∧
    zpNext (0x10 + (boardState [] []).x) (boardState [] []) = .next 0x0033 ∧
    (boardState [] []).mapped (zext16 (0x10 + (boardState [] []).x)) = true ∧ (boardState [] []).mapped 0x0033 = false ∧
    zpNext 0x33 (boardState [] []) = .next 0x0034 ∧ (boardState [] []).mapped (zext16 0x33) = false ∧
    zpNext 0x32 (boardState [] []) = .next 0x0033 ∧ (boardState [] []).mapped (zext16 0x32) = true :=
  ⟨rfl, by decide, rfl, by decide, by decide, rfl, by decide, rfl, by decide⟩

theorem test_hyp_ReadByKind :
    (boardState [] []).kind 0x0000 = .ram ∧ (boardState [] []).kind 0xFFFF = .rom ∧
    (boardState [] []).kind 0x003C = .control ∧ (boardState [] []).kind 0x0030 = .portLatch 0x0031 ∧
    (boardState [] []).kind 0x0031 = .portDirection ∧ (boardState [] []).kind 0x0032 = .external ∧
    (boardState [] []).kind 0x0033 = .unmapped := by decide

theorem test_hyp_OperandByte_WriteByKind :
    effAddr (.abs 0x01FF) (boardState [] []) = .next 0x01FF ∧ (boardState [] []).mapped 0x01FF = true ∧
    effAddr (.abs 0x0200) (boardState [] []) = .next 0x0200 ∧ (boardState [] []).mapped 0x0200 = false :=
  ⟨rfl, by decide, rfl, by decide⟩

/-- With T = 0 and with T = 1: the operand can be read and the destination accessed. -/
theorem test_hyp_destination :
    operandByte (.imm 0x80) (b0 [] [] 0x00) = .next 0x80 ∧
    operandByte (.mem (.zp 0xFF)) (b0 [] [(0x00FF, 0x7F)] 0x20) = .next 0x7F ∧ dstReady (b0 [] [] 0x00) = true ∧
    dstReady (b0 [] [(0x00FF, 0x7F)] 0x20) = true ∧ (b0 [] [] 0x00).flag .d = false ∧
    (b0 [] [] 0x08).flag .d = true :=
  ⟨rfl, rfl, by decide⟩

theorem test_hyp_LdaTakesOperand :
    shape (.ldaImm 0x80) = (.lda, .operand (.imm 0x80)) ∧ shape (.ldaZp 0xFF) = (.lda, .operand (.mem (.zp 0xFF))) := by
  decide

theorem test_hyp_LdxLdyTakeOperand :
    shape (.ldxImm 0x80) = (.ldx, .operand (.imm 0x80)) ∧ shape (.ldyImm 0x80) = (.ldy, .operand (.imm 0x80)) := by decide

theorem test_hyp_StoresStore :
    effAddr (.absX 0xFFFF) (b0 [] [] 0x00) = .next 0x0021 ∧ (b0 [] [] 0x00).mapped 0x0021 = true ∧
    shape (.staAbsX 0xFFFF) = (.sta, .operand (.mem (.absX 0xFFFF))) ∧
    effAddr (.zpY 0xFF) (b0 [] [] 0x00) = .next 0x0032 ∧
    shape (.stxZpY 0xFF) = (.stx, .operand (.mem (.zpY 0xFF))) ∧
    effAddr (.zpX 0xFF) (b0 [] [] 0x00) = .next 0x0021 ∧
    shape (.styZpX 0xFF) = (.sty, .operand (.mem (.zpX 0xFF))) ∧ shape (.ldmZp 0x00 0xFF) = (.ldm, .ldm 0x00 0xFF) ∧
    (b0 [] [] 0x00).mapped (zext16 0xFF) = true :=
  ⟨rfl, by decide, rfl, rfl, rfl, rfl, rfl, rfl, by decide⟩

/-- B0 with S at an end of its range. -/
def stackAt (sp : Byte) : State := { b0 [] [] 0x00 with sp := sp }

theorem test_hyp_PushesPush_PullsPull :
    (stackAt 0x00).slot 0 = 0x0100 ∧ (stackAt 0x00).mapped ((stackAt 0x00).slot 0) = true ∧
    (stackAt 0xFF).top 1 = 0x0100 ∧ (stackAt 0xFF).mapped ((stackAt 0xFF).top 1) = true := by decide

theorem test_hyp_AdcBinary_SbcBinary :
    shape (.adcImm 0x80) = (.adc, .operand (.imm 0x80)) ∧ shape (.sbcZp 0xFF) = (.sbc, .operand (.mem (.zp 0xFF))) := by
  decide

theorem test_hyp_ArithDecimal :
    operandByte (.imm 0x01) { b0 [] [] 0x08 with a := 0x99 } = .next (BitVec.ofNat 8 (16 * 0 + 1)) ∧
    dstReady { b0 [] [] 0x08 with a := 0x99 } = true ∧
    dstByte { b0 [] [] 0x08 with a := 0x99 } = BitVec.ofNat 8 (16 * 9 + 9) ∧
    shape (.adcImm 0x01) = (.adc, .operand (.imm 0x01)) ∧ shape (.sbcImm 0x01) = (.sbc, .operand (.imm 0x01)) :=
  ⟨rfl, by decide, by decide, rfl, rfl⟩

theorem test_hyp_modifies :
    shape .incAcc = (.inc, .target .acc) ∧ shape (.decZp 0xFF) = (.dec, .target (.mem (.zp 0xFF))) ∧
    shape (.comZp 0xFF) = (.com, .target (.mem (.zp 0xFF))) ∧ shape (.rrfZp 0xFF) = (.rrf, .target (.mem (.zp 0xFF))) ∧
    shape .aslAcc = (.asl, .target .acc) ∧ shape (.lsrZpX 0xFF) = (.lsr, .target (.mem (.zpX 0xFF))) ∧
    shape (.rolAbs 0xFFFF) = (.rol, .target (.mem (.abs 0xFFFF))) ∧ shape .rorAcc = (.ror, .target .acc) ∧
    effAddr (.zp 0xFF) (b0 [] [] 0x00) = .next 0x00FF ∧ (b0 [] [] 0x00).mapped 0x00FF = true :=
  ⟨rfl, rfl, rfl, rfl, rfl, rfl, rfl, rfl, rfl, by decide⟩

theorem test_hyp_MulMultiplies :
    (b0 [] [] 0x00).product.hasMulDiv = true ∧ (b0 [] [] 0x00).mapped (zext16 (0xDD + (b0 [] [] 0x00).x)) = true ∧
    (b0 [] [] 0x00).mapped ((b0 [] [] 0x00).slot 0) = true := by decide

/-- A divisor 0xFF and a dividend 0xFEFF: the greatest quotient that fits. -/
def dividing : State := { b0 [] [(0x0040, 0xFF), (0x0041, 0xFE)] 0x00 with a := 0xFF, x := 0x00 }

theorem test_hyp_DivDivides :
    dividing.product.hasMulDiv = true ∧ zpNext (0x40 + dividing.x) dividing = .next 0x0041 ∧
    dividing.mapped (zext16 (0x40 + dividing.x)) = true ∧ dividing.mapped 0x0041 = true ∧
    dividing.mapped (dividing.slot 0) = true ∧ dividing.a ≠ 0 ∧ (256 * 0xFE + 0xFF) / dividing.a.toNat = 255 ∧
    ({ conventions with hasMulDiv := false } : Product).hasMulDiv = false :=
  ⟨rfl, rfl, by decide, by decide, by decide, by decide, by decide, rfl⟩

theorem test_hyp_LogicOps_Compares :
    shape (.andImm 0x80) = (.and, .operand (.imm 0x80)) ∧ shape (.oraImm 0x80) = (.ora, .operand (.imm 0x80)) ∧
    shape (.eorImm 0x80) = (.eor, .operand (.imm 0x80)) ∧ shape (.cmpImm 0x80) = (.cmp, .operand (.imm 0x80)) ∧
    shape (.cpxImm 0x80) = (.cpx, .operand (.imm 0x80)) ∧ shape (.cpyImm 0x80) = (.cpy, .operand (.imm 0x80)) := by
  decide

theorem test_hyp_BitAndTst :
    shape (.bitZp 0xFF) = (.bit, .operand (.mem (.zp 0xFF))) ∧ shape (.tstZp 0xFF) = (.tst, .operand (.mem (.zp 0xFF))) ∧
    operandByte (.mem (.zp 0xFF)) (b0 [] [(0x00FF, 0x7F)] 0x00) = .next 0x7F :=
  ⟨rfl, rfl, rfl⟩

theorem test_hyp_BitInstructions_BitBranches : 7 < 8 ∧ (b0 [] [] 0x00).mapped (zext16 0xFF) = true := by decide

theorem test_hyp_Jumps :
    (0x20FE : Addr).toNat % 256 ≠ 255 ∧ (b0 [] [] 0x00).mapped 0x20FE = true ∧
    (b0 [] [] 0x00).mapped (0x20FE + 1) = true ∧ zpNext 0xFE (b0 [] [] 0x00) = .next 0x00FF ∧
    (b0 [] [] 0x00).mapped (zext16 0xFE) = true ∧ (0x20FF : Addr).toNat % 256 = 255 :=
  ⟨by decide, by decide, by decide, rfl, by decide, by decide⟩

theorem test_hyp_JsrCalls :
    (stackAt 0x00).mapped ((stackAt 0x00).slot 0) = true ∧ (stackAt 0x00).mapped ((stackAt 0x00).slot 1) = true ∧
    (0xFF00 : Addr).toNat / 256 = 255 ∧ zpNext 0xFE (stackAt 0x00) = .next 0x00FF ∧
    (stackAt 0x00).mapped (zext16 0xFE) = true ∧ (stackAt 0x00).mapped 0x00FF = true :=
  ⟨by decide, by decide, by decide, rfl, by decide, by decide⟩

theorem test_hyp_RtsReturns_RtiReturns :
    (stackAt 0xFE).mapped ((stackAt 0xFE).top 1) = true ∧ (stackAt 0xFE).mapped ((stackAt 0xFE).top 2) = true ∧
    (stackAt 0xFE).mapped ((stackAt 0xFE).top 3) = true := by decide

theorem test_hyp_CallThenReturn :
    mnemonic (.jsrAbs 0xD000) = .jsr ∧ (∃ t, exec (.jsrAbs 0xD000) (stackAt 0x00) = .next t ∧ true = true) ∧
    (stackAt 0x00).kind ((stackAt 0x00).slot 0) = .ram ∧ (stackAt 0x00).kind ((stackAt 0x00).slot 1) = .ram :=
  ⟨rfl, exists_of_completes (p := fun _ => true) (by decide), by decide, by decide⟩

theorem test_hyp_BrkTraps :
    (stackAt 0x01).mapped ((stackAt 0x01).slot 0) = true ∧ (stackAt 0x01).mapped ((stackAt 0x01).slot 1) = true ∧
    (stackAt 0x01).mapped ((stackAt 0x01).slot 2) = true ∧ (stackAt 0x01).flag .i = false ∧
    (stackAt 0x01).mapped (stackAt 0x01).product.brkVector = true ∧
    (boundary 0x03 0x03 0x04 .running).flag .i = true ∧
    highestOf (boundary 0x03 0x03 0x04 .running).requesting = some source1 ∧
    (boundary 0x00 0x03 0x04 .running).flag .i = true ∧ (boundary 0x00 0x03 0x04 .running).requesting = [] := by decide

theorem test_hyp_InterruptEntered :
    let s := boundary 0x01 0x01 0x00 .running
    s.mapped (s.slot 0) = true ∧ s.mapped (s.slot 1) = true ∧ s.mapped (s.slot 2) = true ∧
    s.mapped source1.vector = true ∧ s.mapped (source1.vector + 1) = true ∧
    source1.reqAddr ∉ [s.slot 0, s.slot 1, s.slot 2] := by decide

theorem test_hyp_InterruptThenReturn :
    (∃ t, interruptEntry source1 (boundary 0x01 0x01 0x00 .running) = .next t ∧ true = true) ∧
    (boundary 0x01 0x01 0x00 .running).kind ((boundary 0x01 0x01 0x00 .running).slot 0) = .ram ∧
    (boundary 0x01 0x01 0x00 .running).kind ((boundary 0x01 0x01 0x00 .running).slot 1) = .ram ∧
    (boundary 0x01 0x01 0x00 .running).kind ((boundary 0x01 0x01 0x00 .running).slot 2) = .ram :=
  ⟨exists_of_completes (p := fun _ => true) (by decide), by decide⟩

theorem test_hyp_ClockControl :
    (b0 [] [] 0x00).product.stpMode = .stop ∧ ({ conventions with stpMode := .nop } : Product).stpMode = .nop := by
  decide

theorem test_hyp_Acceptance :
    (boundary 0x03 0x03 0x00 .running).acceptable = some source1 ∧
    (boundary 0x01 0x01 0x00 .stop).acceptable = some source1 ∧
    (boundary 0x03 0x03 0x00 .stop).flag .i = false ∧ source1 ∈ (boundary 0x03 0x03 0x00 .stop).pending ∧
    source1.external = true := by decide

/-- The board right after `CLB 0,$3C`. -/
def cleared : State := { boardState [0xEA] [] with touched := some (0x003C, [0]) }

theorem test_hyp_StepKeepsInv : Inv cleared ∧ ∃ t, step cleared = .next t ∧ true = true := by
  refine ⟨⟨by decide, by decide, fun h => absurd rfl h, by decide, ?_, fun _ h => by cases h⟩,
    exists_of_completes (p := fun _ => true) (by decide)⟩
  rintro a bits h
  obtain ⟨rfl, rfl⟩ : (0x003C : Addr) = a ∧ [0] = bits := by simpa [cleared] using h
  decide

theorem test_hyp_RomNeverChanges_ProductFixed :
    Product.wf (boardState [0x8D, 0x00, 0xC0] []).product = true ∧ (boardState [0x8D, 0x00, 0xC0] []).kind 0xC000 = .rom ∧
    ∃ t, step (boardState [0x8D, 0x00, 0xC0] []) = .next t ∧ true = true :=
  ⟨by decide, by decide, exists_of_completes (p := fun _ => true) (by decide)⟩

/-- One instruction for each clause of the statements on what instructions write. -/
theorem test_hyp_writers :
    (∃ t, exec (.ldaImm 0x80) (b0 [] [] 0x00) = .next t ∧ t.a ≠ (b0 [] [] 0x00).a) ∧
    (∃ t, exec .tsx (b0 [] [] 0x00) = .next t ∧ t.x ≠ (b0 [] [] 0x00).x) ∧
    (∃ t, exec .tay (b0 [] [] 0x00) = .next t ∧ t.y ≠ (b0 [] [] 0x00).y) ∧
    (∃ t, exec .txs (b0 [] [] 0x00) = .next t ∧ t.sp ≠ (b0 [] [] 0x00).sp) ∧
    (∃ t, exec .wit (b0 [] [] 0x00) = .next t ∧ t.runState ≠ (b0 [] [] 0x00).runState) :=
  ⟨by simpa using exists_of_completes (p := fun t => decide (t.a ≠ (b0 [] [] 0x00).a)) (by decide),
    by simpa using exists_of_completes (p := fun t => decide (t.x ≠ (b0 [] [] 0x00).x)) (by decide),
    by simpa using exists_of_completes (p := fun t => decide (t.y ≠ (b0 [] [] 0x00).y)) (by decide),
    by simpa using exists_of_completes (p := fun t => decide (t.sp ≠ (b0 [] [] 0x00).sp)) (by decide),
    by simpa using exists_of_completes (p := fun t => decide (t.runState ≠ (b0 [] [] 0x00).runState)) (by decide)⟩

/-- One instruction for each flag; CLI lets interrupts in. -/
theorem test_hyp_FlagWriters :
    completes (exec .sec (b0 [] [] 0x00)) (fun t => t.flag .c) = true ∧
    completes (exec .sei (b0 [] [] 0x00)) (fun t => t.flag .i) = true ∧
    completes (exec .cli (b0 [] [] 0x04)) (fun t => !t.flag .i) = true ∧
    completes (exec .sed (b0 [] [] 0x00)) (fun t => t.flag .d) = true ∧
    completes (exec .brk (b0 [] [] 0x00)) (fun t => t.flag .b) = true ∧
    completes (exec .set (b0 [] [] 0x00)) (fun t => t.flag .t) = true ∧
    completes (exec .clv (b0 [] [] 0x40)) (fun t => !t.flag .v) = true ∧
    completes (exec (.ldaImm 0x80) (b0 [] [] 0x00)) (fun t => t.flag .n) = true ∧
    completes (exec (.ldaImm 0x00) (b0 [] [] 0x00)) (fun t => t.flag .z) = true := by decide

/-- A product with a source whose request and enable bits share the byte at 0x003C. -/
def sharing : State :=
  { b0 [] [(0x003C, 0x01)] 0x00 with
    product := { conventions with irqSources := [⟨1, 0xFFF4, 0x003C, 0, 0x003C, 4, true⟩] } }

theorem test_hyp_StaleRequestAccepted :
    let k : IrqSource := ⟨1, 0xFFF4, 0x003C, 0, 0x003C, 4, true⟩
    (∃ t, exec (.ldmZp 0x10 0x3C) sharing = .next t ∧ decide (k ∈ t.pending) = true) ∧ k ∈ sharing.product.irqSources ∧
    k.reqAddr = zext16 0x3C ∧ k.enAddr = zext16 0x3C ∧ k.reqBit ≠ k.enBit ∧ sharing.kind (zext16 0x3C) = .ram ∧
    (sharing.cell (zext16 0x3C)).getLsbD 0 = true ∧ (sharing.cell (zext16 0x3C)).getLsbD 4 = false ∧
    (0x10 : Byte).getLsbD 0 = false ∧ (0x10 : Byte).getLsbD 4 = true ∧
    (∀ j ∈ sharing.product.irqSources, j.reqAddr = zext16 0x3C → j.reqBit ≠ k.enBit) ∧ sharing.flag .i = false ∧
    sharing.runState = .running :=
  ⟨exists_of_completes (by decide), by decide⟩

/-- STA, a read-modify-write and a T = 1 form meet the hypotheses too. -/
theorem test_hyp_StaleRequestAccepted_forms :
    let moved := fun t : State =>
      !(t.cell 0x003C).getLsbD 0 && (t.cell 0x003C).getLsbD 4 && !t.flag .i && decide (t.runState = .running)
    completes (exec (.staZp 0x3C) { sharing with a := 0x10 }) moved = true ∧
    completes (exec (.aslZp 0x3C) (sharing.setCell 0x003C 0x09)) moved = true ∧
    completes (exec (.eorImm 0x11) { sharing with x := 0x3C, ps := 0x20 }) moved = true := by decide

theorem test_hyp_ResetState :
    (boardState [] []).product.resetPc = .fixed 0xC000 ∧
    ({ board with resetPc := .vector 0xFFFE } : Product).resetPc = .vector 0xFFFE ∧
    (boardState [] []).kind 0x0031 = .portDirection ∧ (boardState [] []).kind 0x0030 ≠ .portDirection := by decide

end Sys2Proof.Tests
end

/-! The step and the fetch (R16), and the four stack instructions (R165 to R168): the facts about whose turn it is, about
the opcode map and about the operand bytes first, then the statements they settle. -/

namespace Sys2Proof

/-- The instruction a form reads from the two bytes after the opcode, each of them used or not. -/
def OpForm.instr : OpForm → Byte → Byte → Instr
  | .one i, _, _ => i
  | .two g, b1, _ => g b1
  | .three g, b1, b2 => g b1 b2

/-- Three bytes decode exactly when the opcode map defines the first, and to what its form reads from the others. -/
theorem decode_three_eq_ok {op b1 b2 : Byte} {i : Instr} :
    decode [op, b1, b2] = .ok i ↔ ∃ f, decodeOp op = some f ∧ f.instr b1 b2 = i := by
  cases hf : decodeOp op with
  | none => simp [decode, hf]
  | some f => cases f <;> simp [decode, hf, OpForm.instr]

/-- An opcode the map defines begins the encoding of what its form reads, and fixes its length (R100): checked opcode by
opcode, whatever the operand bytes. -/
theorem decodeOp_head_length {op : Byte} {f : OpForm} (h : decodeOp op = some f) (b1 b2 : Byte) :
    (encode (f.instr b1 b2)).head? = some op ∧ Machine.instrLength (f.instr b1 b2) = f.bytes := by
  obtain ⟨n, rfl⟩ : ∃ n : Fin 256, op = BitVec.ofFin n := ⟨op.toFin, rfl⟩
  fin_cases n <;> cases h <;> exact ⟨rfl, rfl⟩

end Sys2Proof

namespace Sys2Proof.Machine

/-! ### The CPU's turn -/

@[simp] theorem turnTaken_pc (s : State) : s.turnTaken.pc = s.pc := rfl
@[simp] theorem turnTaken_mapped (s : State) (a : Addr) : s.turnTaken.mapped a = s.mapped a := rfl
@[simp] theorem turnTaken_codeAddr (s : State) (k : Nat) : s.turnTaken.codeAddr k = s.codeAddr k := rfl
@[simp] theorem turnTaken_permits (s : State) (i : Instr) : s.turnTaken.permits i ↔ s.permits i := .rfl

/-- On the CPU's turn the machine does what the CPU does once that turn is no longer to come. -/
theorem step_of_cpuTurn {s : State} (h : s.cpuTurn) : step s = cpuStep (s.withEnv s.env.tail) := by
  unfold step turnStep
  rcases h with h | ⟨rest, h⟩
  · have same : s.withEnv s.env.tail = s := by rw [h, List.tail_nil, ← h]; rfl
    rw [same, h]
  · rw [h, List.tail_cons]

/-- A source that is acceptable is entered, whatever the run state (R16 (1), R325). -/
theorem step_of_acceptable {s : State} {k : IrqSource} (ht : s.cpuTurn) (h : s.acceptable = some k) :
    step s = interruptEntry k s.turnTaken := by
  have h' : (s.withEnv s.env.tail).acceptable = some k := h
  rw [step_of_cpuTurn ht, cpuStep, h']
  rfl

/-- Running with nothing acceptable, the CPU's turn is one instruction (R16 (2)). -/
theorem step_of_running {s : State} (ht : s.cpuTurn) (hr : s.runState = .running) (ha : s.acceptable = none) :
    step s = runInstr s.turnTaken := by
  have ha' : (s.withEnv s.env.tail).acceptable = none := ha
  rw [step_of_cpuTurn ht, cpuStep, ha', withEnv_runState, hr]
  rfl

/-- In Wait or Stop with nothing acceptable, only the turn passes (R326; log 15). -/
theorem step_of_standsStill {s : State} (ht : s.cpuTurn) (h : s.standsStill) :
    step s = .next (s.withEnv s.env.tail) := by
  rw [step_of_cpuTurn ht]
  exact cpuStep_of_asleep ((asleep_withEnv s s.env.tail).trans (asleep_iff.mpr h))

/-! ### The opcode and the shadows -/

theorem opcodeHazard_eq_none {op : Byte} {s : State} :
    opcodeHazard op s = none ↔ (s.lastWasPlp = true → op = 0xEA) ∧
      (s.lastWasDecimal = true → op ≠ 0x38 ∧ op ≠ 0x18 ∧ op ≠ 0xD8) := by
  unfold opcodeHazard
  grind

/-- After PLP every opcode but NOP's is forbidden (R350), before decimal arithmetic is asked for (log 37). -/
theorem opcodeHazard_of_plp {op : Byte} {s : State} (h : s.lastWasPlp = true) (hop : op ≠ 0xEA) :
    opcodeHazard op s = some .plpSuccessor := by
  unfold opcodeHazard
  rw [h, bne_iff_ne.mpr hop]
  rfl

/-- The opcodes a product lacks: those of R140, and without HAS_MULDIV those of MUL and DIV (R142). -/
theorem opcodeForm_eq_none {p : Product} {op : Byte} :
    opcodeForm p op = none ↔ decodeOp op = none ∨ p.hasMulDiv = false ∧ (op = 0x62 ∨ op = 0xE2) := by
  unfold opcodeForm
  grind

/-- A defined opcode keeps its form unless it is one of MUL's and DIV's and they are absent (R142). -/
theorem opcodeForm_of_decodeOp {p : Product} {op b1 b2 : Byte} {f : OpForm} (h : decodeOp op = some f)
    (hm : mnemonic (f.instr b1 b2) = .mul ∨ mnemonic (f.instr b1 b2) = .div → p.hasMulDiv = true) :
    opcodeForm p op = some f := by
  have present : ¬(p.hasMulDiv = false ∧ (op = 0x62 ∨ op = 0xE2)) := by
    rintro ⟨absent, rfl | rfl⟩ <;> cases h
    · exact absurd (hm (.inl rfl)) (by simp [absent])
    · exact absurd (hm (.inr rfl)) (by simp [absent])
  rw [← h]
  exact if_neg (by simpa using present)

/-- Except after PLP, only opcodes of one-byte instructions are forbidden: those of SEC, CLC and CLD (R355). -/
theorem opcodeHazard_of_operands {op : Byte} {s : State} (noPlp : s.lastWasPlp = false)
    (h : ∀ i, decodeOp op ≠ some (.one i)) : opcodeHazard op s = none := by
  refine opcodeHazard_eq_none.mpr ⟨by simp [noPlp], fun _ => ⟨?_, ?_, ?_⟩⟩ <;> rintro rfl
  exacts [h .sec rfl, h .clc rfl, h .cld rfl]

/-- A permitted instruction's opcode meets no hazard (R350, R355). -/
theorem opcodeHazard_of_permits {s : State} {op b1 b2 : Byte} {f : OpForm} (h : decodeOp op = some f)
    (hp : s.permits (f.instr b1 b2)) : opcodeHazard op s = none := by
  obtain ⟨afterPlp, afterDecimal, -⟩ := hp
  refine opcodeHazard_eq_none.mpr ⟨fun plp => ?_, fun dec => ?_⟩
  · have head := (decodeOp_head_length h b1 b2).1
    rw [afterPlp plp] at head
    exact (Option.some.inj head).symm
  · obtain ⟨notSec, notClc, notCld⟩ := afterDecimal dec
    refine ⟨?_, ?_, ?_⟩ <;> rintro rfl <;> cases h
    exacts [notSec rfl, notClc rfl, notCld rfl]

/-- A permitted instruction tests no request bit just written (R352). -/
theorem requestHazard_of_permits {s : State} {i : Instr} (hp : s.permits i) : requestHazard i s = false := by
  obtain ⟨-, -, untouched⟩ := hp
  cases ht : s.touched with
  | none => cases i <;> simp [requestHazard, testsTouched, ht]
  | some bitsAt =>
    obtain ⟨a, bits⟩ := bitsAt
    have untested (b : Nat) (zz rr : Byte) (h : i = .bbcZp b zz rr ∨ i = .bbsZp b zz rr) :
        testsTouched s.touched b zz = false := by
      have := untouched a bits b zz rr ht h
      simp only [testsTouched, ht]
      grind
    cases i
    case bbcZp b zz rr => exact untested b zz rr (.inl rfl)
    case bbsZp b zz rr => exact untested b zz rr (.inr rfl)
    all_goals rfl

/-! ### The operand bytes and the fetch -/

theorem readByte_of_unmapped {s : State} {a : Addr} (h : s.mapped a = false) (k : Access) :
    readByte k a s = .fault (.unmappedAccess a) := by simp [readByte, h]

/-- The operand bytes a form has, all mapped, give the instruction (R16, R100). -/
theorem fetchOperands_of_mapped {f : OpForm} {s : State}
    (h : ∀ k, 0 < k → k < f.bytes → s.mapped (s.codeAddr k) = true) :
    fetchOperands f s =
      .next (f.instr (s.byteAt .operand1 (s.codeAddr 1)) (s.byteAt .operand2 (s.codeAddr 2))) := by
  cases f with
  | one i => rfl
  | two g => simp [fetchOperands, readByte_of_mapped (h 1 (by decide) (by simp [OpForm.bytes])), OpForm.instr]
  | three g =>
    simp [fetchOperands, readByte_of_mapped (h 1 (by decide) (by simp [OpForm.bytes])),
      readByte_of_mapped (h 2 (by decide) (by simp [OpForm.bytes])), OpForm.instr]

/-- The first operand byte with nothing behind it stops the fetch (log 6). -/
theorem fetchOperands_of_unmapped {f : OpForm} {s : State} {k : Nat} (h0 : 0 < k) (hk : k < f.bytes)
    (before : ∀ j, 0 < j → j < k → s.mapped (s.codeAddr j) = true) (h : s.mapped (s.codeAddr k) = false) :
    fetchOperands f s = .fault (.unmappedAccess (s.codeAddr k)) := by
  cases f with
  | one i => simp only [OpForm.bytes] at hk; omega
  | two g =>
    obtain rfl : k = 1 := by simp only [OpForm.bytes] at hk; omega
    simp [fetchOperands, readByte_of_unmapped h]
  | three g =>
    obtain rfl | rfl : k = 1 ∨ k = 2 := by simp only [OpForm.bytes] at hk; omega
    · simp [fetchOperands, readByte_of_unmapped h]
    · simp [fetchOperands, readByte_of_mapped (before 1 (by decide) (by decide)), readByte_of_unmapped h]

theorem fetchPermitted_of_unmapped {s : State} (h : s.mapped s.pc = false) :
    fetchPermitted s = .fault (.unmappedAccess s.pc) := by
  simp [fetchPermitted, readByte_of_unmapped h]

theorem fetchPermitted_of_hazard {s : State} {r : Refusal} (hm : s.mapped s.pc = true)
    (h : opcodeHazard (s.byteAt .opcode s.pc) s = some r) : fetchPermitted s = .refused r := by
  simp [fetchPermitted, readByte_of_mapped hm, h]

theorem fetchPermitted_of_undefined {s : State} (hm : s.mapped s.pc = true)
    (hz : opcodeHazard (s.byteAt .opcode s.pc) s = none) (h : opcodeForm s.product (s.byteAt .opcode s.pc) = none) :
    fetchPermitted s = .refused (.undefinedOpcode (s.byteAt .opcode s.pc) s.pc) := by
  simp [fetchPermitted, readByte_of_mapped hm, hz, h]

theorem fetchPermitted_of_operands_fault {s : State} {f : OpForm} {e : Fault} (hm : s.mapped s.pc = true)
    (hz : opcodeHazard (s.byteAt .opcode s.pc) s = none) (hf : opcodeForm s.product (s.byteAt .opcode s.pc) = some f)
    (h : fetchOperands f s = .fault e) : fetchPermitted s = .fault e := by
  simp [fetchPermitted, readByte_of_mapped hm, hz, hf, h]

/-- The bytes at PC decode to what the form of their opcode reads, as long as that form. -/
theorem decode_codeBytes {s : State} {i : Instr} (h : decode s.codeBytes = .ok i) :
    ∃ f, decodeOp (s.byteAt .opcode s.pc) = some f ∧
      f.instr (s.byteAt .operand1 (s.codeAddr 1)) (s.byteAt .operand2 (s.codeAddr 2)) = i ∧ instrLength i = f.bytes := by
  obtain ⟨f, hf, rfl⟩ := decode_three_eq_ok.mp h
  exact ⟨f, hf, rfl, (decodeOp_head_length hf _ _).2⟩

/-- The instruction at PC is fetched when its bytes are mapped, its product has it and nothing forbids it (R16 (2), (3)). -/
theorem fetchPermitted_of_decode {s : State} {i : Instr} (hd : decode s.codeBytes = .ok i)
    (hm : ∀ k, k < instrLength i → s.mapped (s.codeAddr k) = true)
    (hmd : mnemonic i = .mul ∨ mnemonic i = .div → s.product.hasMulDiv = true) (hp : s.permits i) :
    fetchPermitted s = .next i := by
  obtain ⟨f, hf, rfl, len⟩ := decode_codeBytes hd
  rw [len] at hm
  have opcodeMapped : s.mapped s.pc = true := by
    simpa [State.codeAddr] using hm 0 (by cases f <;> simp [OpForm.bytes])
  exact fetchPermitted_eq_next.mpr ⟨opcodeMapped, opcodeHazard_of_permits hf hp, f, opcodeForm_of_decodeOp hf hmd,
    fetchOperands_of_mapped fun k _ => hm k, requestHazard_of_permits hp⟩

/-! ### The step: what runs and what stops -/

/-- Settles O5: the fetch gives the decoded instruction, and the CPU's turn runs it. -/
theorem stepRunsDecoded : Obligations.StepRunsDecoded := by
  intro s i turn running nothing hd hm hmd hp
  rw [step_of_running turn running nothing, runInstr,
    fetchPermitted_of_decode hd (by simpa using hm) hmd ((turnTaken_permits s i).mpr hp), andThen_next]

/-- Settles O8. -/
theorem stepInterrupts : Obligations.StepInterrupts := fun _ turn =>
  ⟨fun _ source => step_of_acceptable turn source, fun still => step_of_standsStill turn still⟩

/-- Settles O6, clause by clause: the opcode unmapped, forbidden after PLP, undefined in this product, an operand unmapped. -/
theorem fetchStops : Obligations.FetchStops := by
  intro s turn running nothing
  rw [step_of_running turn running nothing, runInstr]
  refine ⟨fun unmapped => ?_, fun mapped plp undefined => ?_, fun mapped noPlp undefined => ?_,
    fun i k hd noPlp hmd h0 hk before unmapped => ?_⟩
  · rw [fetchPermitted_of_unmapped (s := s.turnTaken) unmapped, andThen_fault, turnTaken_pc]
  · have notNop : s.turnTaken.byteAt .opcode s.pc ≠ 0xEA := fun h => by rw [h] at undefined; cases undefined
    rw [fetchPermitted_of_hazard (s := s.turnTaken) mapped (opcodeHazard_of_plp plp notNop), andThen_refused]
  · have absent := opcodeForm_eq_none.mpr undefined
    have noHazard : opcodeHazard (s.turnTaken.byteAt .opcode s.pc) s.turnTaken = none := by
      refine opcodeHazard_of_operands noPlp fun i one => ?_
      rcases undefined with h | ⟨-, h | h⟩ <;> rw [h] at one <;> cases one
    rw [fetchPermitted_of_undefined (s := s.turnTaken) mapped noHazard absent, andThen_refused, turnTaken_pc]
  · obtain ⟨f, hf, rfl, len⟩ := decode_codeBytes hd
    rw [len] at hk
    have opcodeMapped : s.mapped s.pc = true := by simpa [State.codeAddr] using before 0 h0
    have noHazard : opcodeHazard (s.turnTaken.byteAt .opcode s.pc) s.turnTaken = none := by
      refine opcodeHazard_of_operands noPlp fun i one => ?_
      cases hf.symm.trans one
      simp only [OpForm.bytes] at hk
      omega
    rw [fetchPermitted_of_operands_fault (s := s.turnTaken) opcodeMapped noHazard (opcodeForm_of_decodeOp hf hmd)
      (fetchOperands_of_unmapped h0 hk (fun j _ => before j) unmapped), andThen_fault, turnTaken_codeAddr]

/-! ### What the stack instructions write and keep -/

/-- What is kept when less may change is kept when more may. -/
theorem keeps_mono {regs regs' : List Reg} {flags flags' : List Flag} {bytes bytes' : List Addr} {s t : State}
    (h : keeps regs flags bytes s t) (hr : regs ⊆ regs') (hf : flags ⊆ flags') (hb : bytes ⊆ bytes') :
    keeps regs' flags' bytes' s t := by
  obtain ⟨keptRegs, keptFlags, keptBytes, rest⟩ := h
  exact ⟨fun r out => keptRegs r fun h => out (hr h), fun f out => keptFlags f fun h => out (hf h),
    fun a out => keptBytes a fun h => out (hb h), rest⟩

theorem keeps_putA {regs : List Reg} {flags : List Flag} {bytes : List Addr} {s t : State}
    (h : keeps regs flags bytes s t) (mem : Reg.a ∈ regs) (v : Byte) : keeps regs flags bytes s (putA v t) := by
  obtain ⟨keptRegs, rest⟩ := h
  refine ⟨fun r out => ?_, rest⟩
  cases r
  case a => exact absurd mem out
  all_goals exact keptRegs _ out

theorem keeps_putS {regs : List Reg} {flags : List Flag} {bytes : List Addr} {s t : State}
    (h : keeps regs flags bytes s t) (mem : Reg.s ∈ regs) (v : Byte) : keeps regs flags bytes s (putS v t) := by
  obtain ⟨keptRegs, rest⟩ := h
  refine ⟨fun r out => ?_, rest⟩
  cases r
  case s => exact absurd mem out
  all_goals exact keptRegs _ out

theorem keeps_setNZ {regs : List Reg} {flags : List Flag} {bytes : List Addr} {s t : State}
    (h : keeps regs flags bytes s t) (hn : Flag.n ∈ flags) (hz : Flag.z ∈ flags) (v : Byte) :
    keeps regs flags bytes s (t.setNZ v) := by
  obtain ⟨keptRegs, keptFlags, rest⟩ := h
  refine ⟨fun r out => by cases r <;> exact keptRegs _ out, fun f out => ?_, rest⟩
  have notZ : f ≠ .z := fun h => out (h ▸ hz)
  have notN : f ≠ .n := fun h => out (h ▸ hn)
  rw [setNZ_flag, if_neg notZ, if_neg notN, keptFlags f out]

theorem mem_allFlags (f : Flag) : f ∈ allFlags := by cases f <;> decide

theorem keeps_putPs {regs : List Reg} {bytes : List Addr} {s t : State} (h : keeps regs allFlags bytes s t) (v : Byte) :
    keeps regs allFlags bytes s (putPs v t) := by
  obtain ⟨keptRegs, -, rest⟩ := h
  exact ⟨fun r out => by cases r <;> exact keptRegs _ out, fun f out => absurd (mem_allFlags f) out, rest⟩

theorem slot_zero (s : State) : s.slot 0 = s.stackAddr s.sp := by simp [State.slot]

/-- A push at the start of an instruction: the byte in the free slot, S down by one, nothing else (R14). -/
theorem push_begin {s : State} (h : s.mapped (s.slot 0) = true) (n : Nat) (v : Byte) :
    ∃ t, push v (s.begin n) = .next t ∧ stored s t (s.slot 0) v (requestBitsAt s.product (s.slot 0)) ∧
      t.sp = s.sp - 1 ∧ t.pc = s.nextPc n ∧ keeps [.s] [] [s.slot 0] s t := by
  refine ⟨putS (s.sp - 1) ((s.begin n).written .whole (s.slot 0) v), ?_, stored_begin s n .whole (s.slot 0) v, rfl,
    by simp, ?_⟩
  · rw [slot_zero] at h ⊢
    exact push_eq_next.mpr ⟨h, rfl⟩
  · exact keeps_putS (keeps_mono (keeps_written s n .whole (s.slot 0) v) (by simp) (by simp) (by simp)) (by simp) _

/-- A pull at the start of an instruction: the byte above the free slot, S up by one (R14). -/
theorem pull_begin {s : State} (h : s.mapped (s.top 1) = true) (n : Nat) (k : Access) :
    pull k (s.begin n) = .next (s.byteAt k (s.top 1), putS (s.sp + 1) (s.begin n)) :=
  pull_eq_next.mpr ⟨h, rfl⟩

theorem exec_pha (s : State) : exec .pha s = push s.a (s.begin 1) := rfl

theorem exec_php (s : State) : exec .php s = push s.ps (s.begin 1) := rfl

theorem exec_pla {s : State} (h : s.mapped (s.top 1) = true) :
    exec .pla s = .next ((putA (s.byteAt .pull1 (s.top 1)) (putS (s.sp + 1) (s.begin 1))).setNZ
      (s.byteAt .pull1 (s.top 1))) := by
  show execPla s = _
  rw [execPla, pull_begin h, andThen_next]

theorem exec_plp {s : State} (h : s.mapped (s.top 1) = true) :
    exec .plp s = .next (putPs (s.byteAt .pull1 (s.top 1)) (putS (s.sp + 1) (s.begin 1))).markPlp := by
  show execPlp s = _
  rw [execPlp, pull_begin h, andThen_next]

/-- Settles O20: PHA and PHP are one push each, of A and of PS. -/
theorem pushesPush : Obligations.PushesPush := fun s free =>
  ⟨exec_pha s ▸ push_begin free 1 s.a, exec_php s ▸ push_begin free 1 s.ps⟩

/-- Settles O21: PLA and PLP are one pull each, into A with N and Z, and into PS. -/
theorem pullsPull : Obligations.PullsPull := by
  intro s above
  have kept (regs : List Reg) (flags : List Flag) (hs : Reg.s ∈ regs) :
      keeps regs flags [] s (putS (s.sp + 1) (s.begin 1)) :=
    keeps_putS (keeps_mono (keeps_begin s 1) (by simp) (by simp) (by simp)) hs _
  constructor
  · exact ⟨_, exec_pla above, ⟨rfl, rfl, nzOf_setNZ _ _⟩, rfl, ⟨rfl, rfl, rfl, rfl⟩,
      keeps_setNZ (keeps_putA (kept _ _ (by simp)) (by simp) _) (by simp) (by simp) _⟩
  · exact ⟨_, exec_plp above, rfl, rfl, rfl, rfl, rfl, rfl, rfl, keeps_putPs (kept [.s] allFlags (by simp)) _⟩

end Sys2Proof.Machine

/-! The state of the machine (10_state.md). Every step is a chain of updates of the state; which of them an instruction
may make is a table by its mnemonic (`writers`, `exec_reaches`). What an instruction or a step leaves as it was, and the
invariant, are then inductions over that chain, with one case for each kind of update. -/

namespace Sys2Proof.Machine

/-! ### Updates, and what an instruction may write -/

/-- What an update of the state may write; of a flag and of the run state, to which value. -/
inductive Effect where
  | reg (r : Reg)
  | flag (f : Flag) (v : Bool)
  | run (r : RunState)
  /-- `lastWasPLP` set. -/
  | plp
  /-- `lastWasDecimalArith` written. -/
  | decimal
  /-- A byte written by the CPU through the memory map (R75), with the shadows of that write (R351, R352). -/
  | memory
  /-- The byte held at an address changed by the platform. -/
  | cell (a : Addr)

/-- The mnemonics with an effect (R21 to R24, R30 to R37, R45, R354); no instruction changes a byte but through the
memory map. -/
def writers : Effect → List Mnemonic
  | .reg .a => [.lda, .pla, .txa, .tya, .adc, .sbc, .and, .ora, .eor, .asl, .lsr, .rol, .ror, .inc, .dec, .clb, .seb,
      .mul, .div]
  | .reg .x => [.ldx, .tax, .tsx, .inx, .dex]
  | .reg .y => [.ldy, .tay, .iny, .dey]
  | .reg .s => [.txs, .pha, .php, .pla, .plp, .jsr, .rts, .rti, .brk, .mul, .div]
  | .flag .c _ => [.adc, .sbc, .cmp, .cpx, .cpy, .asl, .lsr, .rol, .ror, .sec, .clc, .plp, .rti]
  | .flag .i true => [.sei, .brk, .plp, .rti]
  | .flag .i false => [.cli, .plp, .rti]
  | .flag .d _ => [.sed, .cld, .plp, .rti]
  | .flag .b _ => [.brk, .plp, .rti]
  | .flag .t _ => [.set, .clt, .plp, .rti]
  | .flag .v _ => [.adc, .sbc, .bit, .clv, .plp, .rti]
  | .flag .n _ | .flag .z _ => [.adc, .and, .asl, .bit, .cmp, .com, .cpx, .cpy, .dec, .dex, .dey, .eor, .inc, .inx,
      .iny, .lda, .ldx, .ldy, .lsr, .ora, .pla, .rol, .ror, .sbc, .tax, .tay, .tst, .tsx, .txa, .tya, .plp, .rti]
  | .run .running => [.brk]
  | .run .wait => [.wit]
  | .run .stop => [.stp]
  | .plp => [.plp]
  | .decimal => [.adc, .sbc]
  | .memory => [.lda, .ldm, .sta, .stx, .sty, .pha, .php, .adc, .sbc, .inc, .dec, .mul, .div, .and, .ora, .eor, .com,
      .asl, .lsr, .rol, .ror, .rrf, .clb, .seb, .jsr, .brk]
  | .cell _ => []

/-- The effects an instruction may have, by its mnemonic. -/
abbrev MayOf (m : Mnemonic) (e : Effect) : Prop := m ∈ writers e

/-- The flags of a list may be written, to either value. -/
abbrev MaySetFlags (may : Effect → Prop) (flags : List Flag) : Prop := ∀ f ∈ flags, ∀ b, may (.flag f b)

/-- One update of the state, with an effect that is permitted. -/
inductive Update (may : Effect → Prop) (s : State) : State → Prop where
  | putA (v : Byte) (permit : may (.reg .a)) : Update may s (putA v s)
  | putX (v : Byte) (permit : may (.reg .x)) : Update may s (putX v s)
  | putY (v : Byte) (permit : may (.reg .y)) : Update may s (putY v s)
  | putS (v : Byte) (permit : may (.reg .s)) : Update may s (putS v s)
  | setFlag (f : Flag) (v : Bool) (permit : may (.flag f v)) : Update may s (s.setFlag f v)
  | putPs (v : Byte) (permit : MaySetFlags may allFlags) : Update may s (putPs v s)
  | enter (r : RunState) (permit : may (.run r)) : Update may s (s.enter r)
  | markPlp (permit : may .plp) : Update may s s.markPlp
  | markDecimal (d : Bool) (permit : may .decimal) : Update may s (s.markDecimal d)
  | written (w : WriteScope) (a : Addr) (v : Byte) (permit : may .memory) : Update may s (s.written w a v)
  | setCell (a : Addr) (v : Byte) (permit : may (.cell a)) : Update may s (s.setCell a v)
  | setInput (a : Addr) (v : Byte) : Update may s (s.setInput a v)
  | goto (target : Addr) : Update may s (s.goto target)
  | clearShadows : Update may s s.clearShadows
  | tick : Update may s s.tick
  | withEnv (turns : List Turn) : Update may s (s.withEnv turns)

/-- The second state comes from the first by permitted updates. -/
def Reaches (may : Effect → Prop) : State → State → Prop := Relation.ReflTransGen (Update may)

section Reaches

variable {may may' : Effect → Prop} {s t u : State}

theorem Reaches.refl : Reaches may s s := Relation.ReflTransGen.refl

theorem Reaches.trans (h : Reaches may s t) (h' : Reaches may t u) : Reaches may s u := Relation.ReflTransGen.trans h h'

theorem Reaches.step (h : Reaches may s t) (h' : Update may t u) : Reaches may s u := Relation.ReflTransGen.tail h h'

theorem Update.mono (sub : ∀ e, may e → may' e) (h : Update may s t) : Update may' s t := by
  cases h with
  | putA v permit => exact .putA v (sub _ permit)
  | putX v permit => exact .putX v (sub _ permit)
  | putY v permit => exact .putY v (sub _ permit)
  | putS v permit => exact .putS v (sub _ permit)
  | setFlag f v permit => exact .setFlag f v (sub _ permit)
  | putPs v permit => exact .putPs v fun f mem b => sub _ (permit f mem b)
  | enter r permit => exact .enter r (sub _ permit)
  | markPlp permit => exact .markPlp (sub _ permit)
  | markDecimal d permit => exact .markDecimal d (sub _ permit)
  | written w a v permit => exact .written w a v (sub _ permit)
  | setCell a v permit => exact .setCell a v (sub _ permit)
  | setInput a v => exact .setInput a v
  | goto target => exact .goto target
  | clearShadows => exact .clearShadows
  | tick => exact .tick
  | withEnv turns => exact .withEnv turns

theorem Reaches.mono (sub : ∀ e, may e → may' e) (h : Reaches may s t) : Reaches may' s t :=
  Relation.ReflTransGen.mono (fun _ _ => Update.mono sub) _ _ h

/-- What every permitted update keeps holds wherever permitted updates lead. -/
theorem Reaches.keeps {P : State → Prop} (keep : ∀ t u, Update may t u → P t → P u) (h : Reaches may s t) (hs : P s) :
    P t := by
  induction h with
  | refl => exact hs
  | tail _ last ih => exact keep _ _ last ih

/-! ### What a register, a flag or a shadow not permitted keeps -/

theorem Update.reg_eq (h : Update may s t) {r : Reg} (no : ¬may (.reg r)) : t.reg r = s.reg r := by
  cases h with
  | putA _ permit =>
    cases r with
    | a => exact absurd permit no
    | _ => rfl
  | putX _ permit =>
    cases r with
    | x => exact absurd permit no
    | _ => rfl
  | putY _ permit =>
    cases r with
    | y => exact absurd permit no
    | _ => rfl
  | putS _ permit =>
    cases r with
    | s => exact absurd permit no
    | _ => rfl
  | written w a v => cases r <;> simp [State.reg]
  | _ => cases r <;> rfl

/-- A register that differs was written. -/
theorem Reaches.may_of_reg_ne (h : Reaches may s t) {r : Reg} (ne : t.reg r ≠ s.reg r) : may (.reg r) :=
  not_not.mp fun no => ne (h.keeps (P := fun u => u.reg r = s.reg r) (fun _ _ up eq => (up.reg_eq no).trans eq) rfl)

theorem Update.flag_ne (h : Update may s t) {f : Flag} {b : Bool} (no : ¬may (.flag f b)) (hs : s.flag f ≠ b) :
    t.flag f ≠ b := by
  cases h with
  | setFlag g v permit =>
    rw [setFlag_flag]
    split
    · next eq => rintro rfl; exact no (eq ▸ permit)
    · exact hs
  | putPs v permit => exact absurd (permit f (mem_allFlags f) b) no
  | written w a v => rwa [written_flag]
  | _ => exact hs

/-- A flag that differs was written, to the value it has. -/
theorem Reaches.may_of_flag_ne (h : Reaches may s t) {f : Flag} (ne : t.flag f ≠ s.flag f) : may (.flag f (t.flag f)) :=
  not_not.mp fun no => h.keeps (fun _ _ up => up.flag_ne no) ne.symm rfl

theorem Update.runState_ne (h : Update may s t) {r : RunState} (no : ¬may (.run r)) (hs : s.runState ≠ r) :
    t.runState ≠ r := by
  cases h with
  | enter q permit => rintro rfl; exact no permit
  | written w a v => rwa [written_runState]
  | _ => exact hs

/-- A run state that differs was entered. -/
theorem Reaches.may_of_runState_ne (h : Reaches may s t) (ne : t.runState ≠ s.runState) : may (.run t.runState) :=
  not_not.mp fun no => h.keeps (fun _ _ up => up.runState_ne no) ne.symm rfl

theorem Update.lastWasPlp_eq (h : Update may s t) (no : ¬may .plp) (hs : s.lastWasPlp = false) :
    t.lastWasPlp = false := by
  cases h with
  | markPlp permit => exact absurd permit no
  | written w a v => rwa [written_lastWasPlp]
  | clearShadows => rfl
  | _ => exact hs

theorem Update.lastWasDecimal_eq (h : Update may s t) (no : ¬may .decimal) (hs : s.lastWasDecimal = false) :
    t.lastWasDecimal = false := by
  cases h with
  | markDecimal d permit => exact absurd permit no
  | written w a v => rwa [written_lastWasDecimal]
  | clearShadows => rfl
  | _ => exact hs

/-- Without a write through the memory map no shadow of a request bit arises. -/
theorem Update.requestShadows_clear (h : Update may s t) (no : ¬may .memory) (hs : s.touched = none ∧ s.stale = []) :
    t.touched = none ∧ t.stale = [] := by
  cases h with
  | written w a v permit => exact absurd permit no
  | clearShadows => exact ⟨rfl, rfl⟩
  | _ => exact hs

end Reaches

/-! ### The operations as updates -/

section Operations

variable {may : Effect → Prop} {s t u : State}

theorem begin_reaches (s : State) (n : Nat) : Reaches may s (s.begin n) :=
  (Reaches.refl.step .clearShadows).step (.goto _)

theorem Reaches.setNZ (h : Reaches may s t) (nz : MaySetFlags may [.n, .z]) (v : Byte) : Reaches may s (t.setNZ v) :=
  (h.step (.setFlag .n _ (nz .n (by simp) _))).step (.setFlag .z _ (nz .z (by simp) _))

theorem Reaches.setCompare (h : Reaches may s t) (nz : MaySetFlags may [.n, .z]) (c : MaySetFlags may [.c])
    (a m : Byte) : Reaches may s (t.setCompare a m) :=
  (h.setNZ nz _).step (.setFlag .c _ (c .c (by simp) _))

theorem Reaches.setShift (h : Reaches may s t) (nz : MaySetFlags may [.n, .z]) (c : MaySetFlags may [.c])
    (o : Shifted) : Reaches may s (t.setShift o) :=
  (h.setNZ nz _).step (.setFlag .c _ (c .c (by simp) _))

theorem Reaches.setBitTest (h : Reaches may s t) (nvz : MaySetFlags may [.n, .v, .z]) (a m : Byte) :
    Reaches may s (t.setBitTest a m) :=
  ((h.step (.setFlag .n _ (nvz .n (by simp) _))).step (.setFlag .v _ (nvz .v (by simp) _))).step
    (.setFlag .z _ (nvz .z (by simp) _))

theorem Reaches.setArith (h : Reaches may s t) (nvzc : MaySetFlags may [.n, .v, .z, .c]) (o : Arith) :
    Reaches may s (t.setArith o) :=
  (((h.step (.setFlag .n _ (nvzc .n (by simp) _))).step (.setFlag .v _ (nvzc .v (by simp) _))).step
    (.setFlag .z _ (nvzc .z (by simp) _))).step (.setFlag .c _ (nvzc .c (by simp) _))

theorem writeByte_reaches {w : WriteScope} {a : Addr} {v : Byte} (mem : may .memory) (h : writeByte w a v s = .next t) :
    Reaches may s t := by
  obtain ⟨-, rfl⟩ := writeByte_eq_next.mp h
  exact Reaches.refl.step (.written w a v mem)

theorem writeDst_reaches {v : Byte} (ha : may (.reg .a)) (mem : may .memory) (h : writeDst v s = .next t) :
    Reaches may s t := by
  obtain ⟨-, rfl⟩ | ⟨-, -, rfl⟩ := writeDst_eq_next.mp h
  · exact Reaches.refl.step (.putA v ha)
  · exact Reaches.refl.step (.written .whole _ v mem)

theorem push_reaches {v : Byte} (hs : may (.reg .s)) (mem : may .memory) (h : push v s = .next t) :
    Reaches may s t := by
  obtain ⟨-, rfl⟩ := push_eq_next.mp h
  exact (Reaches.refl.step (.written .whole _ v mem)).step (.putS _ hs)

theorem pushWord_reaches {w : Addr} (hs : may (.reg .s)) (mem : may .memory) (h : pushWord w s = .next t) :
    Reaches may s t := by
  obtain ⟨u, hi, lo⟩ := pushWord_eq_next.mp h
  exact (push_reaches hs mem hi).trans (push_reaches hs mem lo)

theorem pull_reaches {k : Access} {p : Byte × State} (hs : may (.reg .s)) (h : pull k s = .next p) :
    Reaches may s p.2 := by
  obtain ⟨-, rfl⟩ := pull_eq_next.mp h
  exact Reaches.refl.step (.putS _ hs)

theorem pullWord_reaches {k₁ k₂ : Access} {p : Addr × State} (hs : may (.reg .s))
    (h : pullWord k₁ k₂ s = .next p) : Reaches may s p.2 := by
  obtain ⟨lo, hi, hlo, hhi, rfl⟩ := pullWord_eq_next.mp h
  exact (pull_reaches hs hlo).trans (pull_reaches hs hhi)

/-- Taking BRK or a hardware interrupt: S and the frame's bytes, B and I, the accepted source's request bit, Running. -/
theorem takeInterrupt_reaches {brk : Bool} {ret v : Addr} {accepted : Option IrqSource} (hs : may (.reg .s))
    (mem : may .memory) (hb : may (.flag .b brk)) (hi : may (.flag .i true)) (hr : may (.run .running))
    (hk : ∀ k, accepted = some k → may (.cell k.reqAddr)) (h : takeInterrupt brk ret v accepted s = .next t) :
    Reaches may s t := by
  obtain ⟨u, w, target, frame, rfl, -, rfl⟩ := takeInterrupt_eq_next.mp h
  obtain ⟨r, address, flags⟩ := pushFrame_eq_next.mp frame
  have pushed := (pushWord_reaches hs mem address).trans (push_reaches hs mem flags)
  have flagged := (pushed.step (.setFlag .b brk hb)).step (.setFlag .i true hi)
  refine Reaches.step (Reaches.step (Reaches.step ?_ .clearShadows) (.goto target)) (.enter .running hr)
  cases accepted with
  | none => exact flagged
  | some k => exact flagged.step (.setCell _ _ (hk k rfl))

/-! ### The shared operations of instructions, from the start of the instruction -/

theorem storeOp_reaches {m : AddrMode} {v : Byte} (mem : may .memory) (h : storeOp m v s = .next t) :
    ∃ n, Reaches may (s.begin n) t := by
  obtain ⟨ea, -, -, rfl⟩ := storeOp_eq_next.mp h
  exact ⟨_, Reaches.refl.step (.written .whole ea v mem)⟩

theorem loadOp_reaches {put : Byte → State → State} {o : Operand} (hput : ∀ v u, Reaches may u (put v u))
    (nz : MaySetFlags may [.n, .z]) (h : loadOp put o s = .next t) : ∃ n, Reaches may (s.begin n) t := by
  obtain ⟨m, -, rfl⟩ := loadOp_eq_next.mp h
  exact ⟨_, (hput m _).setNZ nz m⟩

theorem loadDstOp_reaches {o : Operand} (ha : may (.reg .a)) (mem : may .memory) (nz : MaySetFlags may [.n, .z])
    (h : loadDstOp o s = .next t) : ∃ n, Reaches may (s.begin n) t := by
  obtain ⟨m, u, -, dst, rfl⟩ := loadDstOp_eq_next.mp h
  exact ⟨_, (writeDst_reaches ha mem dst).setNZ nz m⟩

theorem logicOp_reaches {f : Byte → Byte → Byte} {o : Operand} (ha : may (.reg .a)) (mem : may .memory)
    (nz : MaySetFlags may [.n, .z]) (h : logicOp f o s = .next t) : ∃ n, Reaches may (s.begin n) t := by
  obtain ⟨m, a, u, -, -, dst, rfl⟩ := logicOp_eq_next.mp h
  exact ⟨_, (writeDst_reaches ha mem dst).setNZ nz _⟩

theorem arithOp_reaches {f : State → Byte → Byte → Arith} {o : Operand} (ha : may (.reg .a)) (mem : may .memory)
    (nvzc : MaySetFlags may [.n, .v, .z, .c]) (dec : may .decimal) (h : arithOp f o s = .next t) :
    ∃ n, Reaches may (s.begin n) t := by
  obtain ⟨m, a, u, -, -, dst, rfl⟩ := arithOp_eq_next.mp h
  exact ⟨_, ((writeDst_reaches ha mem dst).setArith nvzc _).step (.markDecimal _ dec)⟩

theorem compareOp_reaches {r : Byte} {o : Operand} (nz : MaySetFlags may [.n, .z]) (c : MaySetFlags may [.c])
    (h : compareOp r o s = .next t) : ∃ n, Reaches may (s.begin n) t := by
  obtain ⟨m, -, rfl⟩ := compareOp_eq_next.mp h
  exact ⟨_, Reaches.refl.setCompare nz c r m⟩

theorem compareDstOp_reaches {o : Operand} (nz : MaySetFlags may [.n, .z]) (c : MaySetFlags may [.c])
    (h : compareDstOp o s = .next t) : ∃ n, Reaches may (s.begin n) t := by
  obtain ⟨m, a, -, -, rfl⟩ := compareDstOp_eq_next.mp h
  exact ⟨_, Reaches.refl.setCompare nz c a m⟩

theorem bitTestOp_reaches {m : AddrMode} (nvz : MaySetFlags may [.n, .v, .z]) (h : bitTestOp m s = .next t) :
    ∃ n, Reaches may (s.begin n) t := by
  obtain ⟨v, -, rfl⟩ := bitTestOp_eq_next.mp h
  exact ⟨_, Reaches.refl.setBitTest nvz _ v⟩

/-- A read-modify-write of memory whose flags `fl` writes. -/
theorem modifyOp_mem_reaches {f : Byte → Byte} {fl : Byte → State → State} {m : AddrMode} (mem : may .memory)
    (hfl : ∀ v u, Reaches may u (fl v u)) (h : modifyOp f fl (.mem m) s = .next t) :
    ∃ n, Reaches may (s.begin n) t := by
  obtain ⟨ea, -, -, rfl⟩ := modifyOp_mem_eq_next.mp h
  exact ⟨_, (Reaches.refl.step (.written .whole ea _ mem)).trans (hfl _ _)⟩

theorem modifyOp_reaches {f : Byte → Byte} {fl : Byte → State → State} {g : Target} (ha : may (.reg .a))
    (mem : may .memory) (hfl : ∀ v u, Reaches may u (fl v u)) (h : modifyOp f fl g s = .next t) :
    ∃ n, Reaches may (s.begin n) t := by
  cases g with
  | acc => cases h; exact ⟨_, (Reaches.refl.step (.putA _ ha)).trans (hfl _ _)⟩
  | mem m => exact modifyOp_mem_reaches mem hfl h

theorem modifyNZ_reaches {f : Byte → Byte} {g : Target} (ha : may (.reg .a)) (mem : may .memory)
    (nz : MaySetFlags may [.n, .z]) (h : modifyNZ f g s = .next t) : ∃ n, Reaches may (s.begin n) t :=
  modifyOp_reaches ha mem (fun _ _ => Reaches.refl.setNZ nz _) h

theorem shiftOp_reaches {f : Byte → Shifted} {g : Target} (ha : may (.reg .a)) (mem : may .memory)
    (nz : MaySetFlags may [.n, .z]) (c : MaySetFlags may [.c]) (h : shiftOp f g s = .next t) :
    ∃ n, Reaches may (s.begin n) t :=
  modifyOp_reaches ha mem (fun _ _ => Reaches.refl.setShift nz c _) h

theorem modifyBit_reaches {f : Byte → Nat → Byte} {i : Nat} {zz : Byte} (mem : may .memory)
    (h : modifyBit f i zz s = .next t) : ∃ n, Reaches may (s.begin n) t := by
  obtain ⟨-, rfl⟩ := modifyBit_eq_next.mp h
  exact ⟨_, Reaches.refl.step (.written (.bit i) _ _ mem)⟩

theorem implied_reaches {put : Byte → State → State} {v : Byte} (hput : ∀ v u, Update may u (put v u))
    (nz : MaySetFlags may [.n, .z]) (h : implied put v s = .next t) : ∃ n, Reaches may (s.begin n) t := by
  cases h
  exact ⟨_, (Reaches.refl.step (hput v _)).setNZ nz v⟩

theorem flagOp_reaches {f : Flag} {v : Bool} (hf : may (.flag f v)) (h : flagOp f v s = .next t) :
    ∃ n, Reaches may (s.begin n) t := by
  cases h
  exact ⟨_, Reaches.refl.step (.setFlag f v hf)⟩

theorem branch_reaches {taken : Bool} {n : Nat} {rr : Byte} (h : branch taken n rr s = .next t) :
    ∃ n, Reaches may (s.begin n) t := by
  cases h
  refine ⟨n, ?_⟩
  cases taken with
  | false => exact .refl
  | true => exact Reaches.refl.step (.goto _)

theorem branchOnZpBit_reaches {want : Bool} {i : Nat} {zz rr : Byte} (h : branchOnZpBit want i zz rr s = .next t) :
    ∃ n, Reaches may (s.begin n) t :=
  branch_reaches (branchOnZpBit_eq_next.mp h).2

theorem multiplyOp_reaches {p : Byte} (ha : may (.reg .a)) (hs : may (.reg .s)) (mem : may .memory)
    (h : multiplyOp p s = .next t) : ∃ n, Reaches may (s.begin n) t := by
  obtain ⟨m, -, h⟩ := andThen_eq_next.mp h
  obtain ⟨u, pushed, h⟩ := andThen_eq_next.mp h
  cases h
  exact ⟨_, (push_reaches hs mem pushed).step (.putA _ ha)⟩

theorem divideOp_reaches {p : Byte} (ha : may (.reg .a)) (hs : may (.reg .s)) (mem : may .memory)
    (h : divideOp p s = .next t) : ∃ n, Reaches may (s.begin n) t := by
  obtain ⟨w, -, h⟩ := andThen_eq_next.mp h
  obtain ⟨u, pushed, h⟩ := andThen_eq_next.mp h
  cases h
  exact ⟨_, (push_reaches hs mem pushed).step (.putA _ ha)⟩

theorem callOp_reaches {n : Nat} (hs : may (.reg .s)) (mem : may .memory) (h : callOp n s = .next t) :
    Reaches may (s.begin n) t := pushWord_reaches hs mem h

theorem returnFromInterrupt_reaches (hs : may (.reg .s)) (flags : MaySetFlags may allFlags)
    (h : returnFromInterrupt s = .next t) : Reaches may s t := by
  obtain ⟨p, w, ps, pc, rfl⟩ := returnFromInterrupt_eq_next.mp h
  exact (((pull_reaches hs ps).trans (pullWord_reaches hs pc)).step (.putPs _ flags)).step (.goto _)

end Operations

/-! ### The instructions with a meaning of their own -/

section Instructions

variable {s t : State}

theorem execPla_reaches (h : execPla s = .next t) : ∃ n, Reaches (MayOf .pla) (s.begin n) t := by
  obtain ⟨p, pulled, h⟩ := andThen_eq_next.mp h
  cases h
  exact ⟨1, ((pull_reaches (by decide) pulled).step (.putA _ (by decide))).setNZ (by decide) _⟩

theorem execPlp_reaches (h : execPlp s = .next t) : ∃ n, Reaches (MayOf .plp) (s.begin n) t := by
  obtain ⟨p, pulled, h⟩ := andThen_eq_next.mp h
  cases h
  exact ⟨1, ((pull_reaches (by decide) pulled).step (.putPs _ (by decide))).step (.markPlp (by decide))⟩

theorem execMulZpX_reaches {zz : Byte} (h : execMulZpX zz s = .next t) : ∃ n, Reaches (MayOf .mul) (s.begin n) t := by
  unfold execMulZpX at h
  split at h
  · exact multiplyOp_reaches (by decide) (by decide) (by decide) h
  · cases h

theorem execDivZpX_reaches {zz : Byte} (h : execDivZpX zz s = .next t) : ∃ n, Reaches (MayOf .div) (s.begin n) t := by
  unfold execDivZpX at h
  split at h
  · exact divideOp_reaches (by decide) (by decide) (by decide) h
  · cases h

theorem execJmpInd_reaches {hhll : Addr} (h : execJmpInd hhll s = .next t) :
    ∃ n, Reaches (MayOf .jmp) (s.begin n) t := by
  unfold execJmpInd at h
  split at h
  · cases h
  · obtain ⟨p, -, h⟩ := andThen_eq_next.mp h
    cases h
    exact ⟨3, Reaches.refl.step (.goto p)⟩

theorem execJmpZpInd_reaches {zz : Byte} (h : execJmpZpInd zz s = .next t) :
    ∃ n, Reaches (MayOf .jmp) (s.begin n) t := by
  obtain ⟨p, -, h⟩ := andThen_eq_next.mp h
  cases h
  exact ⟨2, Reaches.refl.step (.goto p)⟩

theorem execJsrZpInd_reaches {zz : Byte} (h : execJsrZpInd zz s = .next t) :
    ∃ n, Reaches (MayOf .jsr) (s.begin n) t := by
  obtain ⟨u, called, h⟩ := andThen_eq_next.mp h
  obtain ⟨p, -, h⟩ := andThen_eq_next.mp h
  cases h
  exact ⟨2, (callOp_reaches (by decide) (by decide) called).step (.goto p)⟩

theorem execJsrAbs_reaches {hhll : Addr} (h : execJsrAbs hhll s = .next t) :
    ∃ n, Reaches (MayOf .jsr) (s.begin n) t := by
  obtain ⟨u, called, h⟩ := andThen_eq_next.mp h
  cases h
  exact ⟨3, (callOp_reaches (by decide) (by decide) called).step (.goto _)⟩

theorem execJsrSp_reaches {hhll : Addr} (h : execJsrSp hhll s = .next t) :
    ∃ n, Reaches (MayOf .jsr) (s.begin n) t := by
  obtain ⟨u, called, h⟩ := andThen_eq_next.mp h
  cases h
  exact ⟨2, (callOp_reaches (by decide) (by decide) called).step (.goto _)⟩

theorem execRts_reaches (h : execRts s = .next t) : ∃ n, Reaches (MayOf .rts) (s.begin n) t := by
  obtain ⟨p, pulled, h⟩ := andThen_eq_next.mp h
  cases h
  exact ⟨1, (pullWord_reaches (by decide) pulled).step (.goto _)⟩

theorem execRti_reaches (h : execRti s = .next t) : ∃ n, Reaches (MayOf .rti) (s.begin n) t :=
  ⟨1, returnFromInterrupt_reaches (by decide) (by decide) h⟩

theorem execBrk_reaches (h : execBrk s = .next t) : ∃ n, Reaches (MayOf .brk) (s.begin n) t :=
  ⟨1, takeInterrupt_reaches (by decide) (by decide) (by decide) (by decide) (by decide) (by simp) h⟩

theorem execStp_reaches (h : execStp s = .next t) : ∃ n, Reaches (MayOf .stp) (s.begin n) t := by
  cases h
  refine ⟨1, ?_⟩
  cases s.product.stpMode with
  | stop => exact Reaches.refl.step (.enter .stop (by decide))
  | nop => exact .refl

end Instructions

/-- What any instruction does: updates its mnemonic may make, from the state an instruction starts on. -/
theorem exec_reaches {i : Instr} {s t : State} (h : exec i s = .next t) :
    ∃ n, Reaches (MayOf (mnemonic i)) (s.begin n) t := by
  cases i
  case ldaIndX | ldaZp | ldaImm | ldaAbs | ldaIndY | ldaZpX | ldaAbsY | ldaAbsX =>
    exact loadDstOp_reaches (may := MayOf .lda) (by decide) (by decide) (by decide) ((exec_lda rfl s).symm.trans h)
  case ldmZp => exact ⟨_, writeByte_reaches (may := MayOf .ldm) (by decide) ((exec_ldm rfl s).symm.trans h)⟩
  case ldxImm | ldxZp | ldxAbs | ldxZpY | ldxAbsY =>
    exact loadOp_reaches (may := MayOf .ldx) (fun v _ => Reaches.refl.step (.putX v (by decide))) (by decide)
      ((exec_ldx rfl s).symm.trans h)
  case ldyImm | ldyZp | ldyAbs | ldyZpX | ldyAbsX =>
    exact loadOp_reaches (may := MayOf .ldy) (fun v _ => Reaches.refl.step (.putY v (by decide))) (by decide)
      ((exec_ldy rfl s).symm.trans h)
  case staIndX | staZp | staAbs | staIndY | staZpX | staAbsY | staAbsX =>
    exact storeOp_reaches (may := MayOf .sta) (by decide) ((exec_sta rfl s).symm.trans h)
  case stxZp | stxAbs | stxZpY =>
    exact storeOp_reaches (may := MayOf .stx) (by decide) ((exec_stx rfl s).symm.trans h)
  case styZp | styAbs | styZpX =>
    exact storeOp_reaches (may := MayOf .sty) (by decide) ((exec_sty rfl s).symm.trans h)
  case tax => exact implied_reaches (may := MayOf .tax) (fun v _ => .putX v (by decide)) (by decide) h
  case txa => exact implied_reaches (may := MayOf .txa) (fun v _ => .putA v (by decide)) (by decide) h
  case tay => exact implied_reaches (may := MayOf .tay) (fun v _ => .putY v (by decide)) (by decide) h
  case tya => exact implied_reaches (may := MayOf .tya) (fun v _ => .putA v (by decide)) (by decide) h
  case tsx => exact implied_reaches (may := MayOf .tsx) (fun v _ => .putX v (by decide)) (by decide) h
  case txs => cases h; exact ⟨1, Reaches.refl.step (.putS _ (by decide))⟩
  case pha => exact ⟨1, push_reaches (may := MayOf .pha) (by decide) (by decide) h⟩
  case php => exact ⟨1, push_reaches (may := MayOf .php) (by decide) (by decide) h⟩
  case pla => exact execPla_reaches h
  case plp => exact execPlp_reaches h
  case adcIndX | adcZp | adcImm | adcAbs | adcIndY | adcZpX | adcAbsY | adcAbsX =>
    exact arithOp_reaches (may := MayOf .adc) (by decide) (by decide) (by decide) (by decide)
      ((exec_adc rfl s).symm.trans h)
  case sbcIndX | sbcZp | sbcImm | sbcAbs | sbcIndY | sbcZpX | sbcAbsY | sbcAbsX =>
    exact arithOp_reaches (may := MayOf .sbc) (by decide) (by decide) (by decide) (by decide)
      ((exec_sbc rfl s).symm.trans h)
  case incAcc | incZp | incAbs | incZpX | incAbsX =>
    exact modifyNZ_reaches (may := MayOf .inc) (by decide) (by decide) (by decide) ((exec_inc rfl s).symm.trans h)
  case decAcc | decZp | decAbs | decZpX | decAbsX =>
    exact modifyNZ_reaches (may := MayOf .dec) (by decide) (by decide) (by decide) ((exec_dec rfl s).symm.trans h)
  case inx => exact implied_reaches (may := MayOf .inx) (fun v _ => .putX v (by decide)) (by decide) h
  case iny => exact implied_reaches (may := MayOf .iny) (fun v _ => .putY v (by decide)) (by decide) h
  case dex => exact implied_reaches (may := MayOf .dex) (fun v _ => .putX v (by decide)) (by decide) h
  case dey => exact implied_reaches (may := MayOf .dey) (fun v _ => .putY v (by decide)) (by decide) h
  case mulZpX => exact execMulZpX_reaches h
  case divZpX => exact execDivZpX_reaches h
  case andIndX | andZp | andImm | andAbs | andIndY | andZpX | andAbsY | andAbsX =>
    exact logicOp_reaches (may := MayOf .and) (by decide) (by decide) (by decide) ((exec_and rfl s).symm.trans h)
  case oraIndX | oraZp | oraImm | oraAbs | oraIndY | oraZpX | oraAbsY | oraAbsX =>
    exact logicOp_reaches (may := MayOf .ora) (by decide) (by decide) (by decide) ((exec_ora rfl s).symm.trans h)
  case eorIndX | eorZp | eorImm | eorAbs | eorIndY | eorZpX | eorAbsY | eorAbsX =>
    exact logicOp_reaches (may := MayOf .eor) (by decide) (by decide) (by decide) ((exec_eor rfl s).symm.trans h)
  case comZp =>
    exact modifyOp_mem_reaches (may := MayOf .com) (by decide) (fun _ _ => Reaches.refl.setNZ (by decide) _)
      ((exec_com rfl s).symm.trans h)
  case bitZp | bitAbs => exact bitTestOp_reaches (may := MayOf .bit) (by decide) h
  case tstZp =>
    exact loadOp_reaches (may := MayOf .tst) (fun _ _ => .refl) (by decide) ((exec_tst rfl s).symm.trans h)
  case cmpIndX | cmpZp | cmpImm | cmpAbs | cmpIndY | cmpZpX | cmpAbsY | cmpAbsX =>
    exact compareDstOp_reaches (may := MayOf .cmp) (by decide) (by decide) ((exec_cmp rfl s).symm.trans h)
  case cpxImm | cpxZp | cpxAbs =>
    exact compareOp_reaches (may := MayOf .cpx) (by decide) (by decide) ((exec_cpx rfl s).symm.trans h)
  case cpyImm | cpyZp | cpyAbs =>
    exact compareOp_reaches (may := MayOf .cpy) (by decide) (by decide) ((exec_cpy rfl s).symm.trans h)
  case aslZp | aslAcc | aslAbs | aslZpX | aslAbsX =>
    exact shiftOp_reaches (may := MayOf .asl) (by decide) (by decide) (by decide) (by decide)
      ((exec_asl rfl s).symm.trans h)
  case lsrZp | lsrAcc | lsrAbs | lsrZpX | lsrAbsX =>
    exact shiftOp_reaches (may := MayOf .lsr) (by decide) (by decide) (by decide) (by decide)
      ((exec_lsr rfl s).symm.trans h)
  case rolZp | rolAcc | rolAbs | rolZpX | rolAbsX =>
    exact shiftOp_reaches (may := MayOf .rol) (by decide) (by decide) (by decide) (by decide)
      ((exec_rol rfl s).symm.trans h)
  case rorZp | rorAcc | rorAbs | rorZpX | rorAbsX =>
    exact shiftOp_reaches (may := MayOf .ror) (by decide) (by decide) (by decide) (by decide)
      ((exec_ror rfl s).symm.trans h)
  case rrfZp =>
    exact modifyOp_mem_reaches (may := MayOf .rrf) (by decide) (fun _ _ => .refl) ((exec_rrf rfl s).symm.trans h)
  case clbAcc => cases h; exact ⟨1, Reaches.refl.step (may := MayOf .clb) (.putA _ (by decide))⟩
  case clbZp => exact modifyBit_reaches (may := MayOf .clb) (by decide) h
  case sebAcc => cases h; exact ⟨1, Reaches.refl.step (may := MayOf .seb) (.putA _ (by decide))⟩
  case sebZp => exact modifyBit_reaches (may := MayOf .seb) (by decide) h
  case clc => exact flagOp_reaches (may := MayOf .clc) (by decide) h
  case sec => exact flagOp_reaches (may := MayOf .sec) (by decide) h
  case cld => exact flagOp_reaches (may := MayOf .cld) (by decide) h
  case sed => exact flagOp_reaches (may := MayOf .sed) (by decide) h
  case cli => exact flagOp_reaches (may := MayOf .cli) (by decide) h
  case sei => exact flagOp_reaches (may := MayOf .sei) (by decide) h
  case clt => exact flagOp_reaches (may := MayOf .clt) (by decide) h
  case set => exact flagOp_reaches (may := MayOf .set) (by decide) h
  case clv => exact flagOp_reaches (may := MayOf .clv) (by decide) h
  case jmpAbs => cases h; exact ⟨3, Reaches.refl.step (.goto _)⟩
  case jmpInd => exact execJmpInd_reaches h
  case jmpZpInd => exact execJmpZpInd_reaches h
  case bra | bcc | bcs | beq | bne | bmi | bpl | bvc | bvs | bbcAcc | bbsAcc => exact branch_reaches h
  case bbcZp | bbsZp => exact branchOnZpBit_reaches h
  case jsrZpInd => exact execJsrZpInd_reaches h
  case jsrAbs => exact execJsrAbs_reaches h
  case jsrSp => exact execJsrSp_reaches h
  case rts => exact execRts_reaches h
  case rti => exact execRti_reaches h
  case brk => exact execBrk_reaches h
  case stp => exact execStp_reaches h
  case wit => cases h; exact ⟨1, Reaches.refl.step (.enter .wait (by decide))⟩
  case nop => cases h; exact ⟨1, .refl⟩

/-! ### Which instructions write what -/

section Writers

variable {i : Instr} {s t : State}

theorem exec_reg_writer (h : exec i s = .next t) {r : Reg} (ne : t.reg r ≠ s.reg r) :
    mnemonic i ∈ writers (.reg r) := by
  obtain ⟨n, reached⟩ := exec_reaches h
  have begun : (s.begin n).reg r = s.reg r := by cases r <;> rfl
  exact reached.may_of_reg_ne (begun ▸ ne)

theorem exec_flag_writer (h : exec i s = .next t) {f : Flag} (ne : t.flag f ≠ s.flag f) :
    mnemonic i ∈ writers (.flag f (t.flag f)) := by
  obtain ⟨n, reached⟩ := exec_reaches h
  exact reached.may_of_flag_ne ne

/-- Only STP and WIT leave Running (R45, R332). -/
theorem exec_leaves_running (h : exec i s = .next t) (running : s.runState = .running) (ne : t.runState ≠ .running) :
    mnemonic i = .stp ∨ mnemonic i = .wit := by
  obtain ⟨n, reached⟩ := exec_reaches h
  have enters := reached.may_of_runState_ne (running ▸ ne : t.runState ≠ s.runState)
  cases hr : t.runState <;> rw [hr] at enters
  · exact absurd hr ne
  · exact .inr (List.mem_singleton.mp enters)
  · exact .inl (List.mem_singleton.mp enters)

end Writers

/-- Settles O57. -/
theorem registerWriters : Obligations.RegisterWriters := fun _ _ _ h =>
  ⟨exec_reg_writer h (r := .a), exec_reg_writer h (r := .x), exec_reg_writer h (r := .y), exec_reg_writer h (r := .s),
    fun running ne => by simpa using exec_leaves_running h running (running ▸ ne)⟩

theorem writers_flag_i_subset (b : Bool) : writers (.flag .i b) ⊆ [.sei, .cli, .brk, .plp, .rti] := by
  cases b <;> decide

/-- Settles O58. -/
theorem flagWriters : Obligations.FlagWriters := by
  intro i s t h
  refine ⟨exec_flag_writer h, fun ne => ?_, fun before after => ?_, exec_flag_writer h, exec_flag_writer h,
    exec_flag_writer h, exec_flag_writer h, ?_⟩
  · exact writers_flag_i_subset _ (exec_flag_writer h ne)
  · have writes := exec_flag_writer h (f := .i) (by simp [before, after])
    rwa [after] at writes
  · rintro (ne | ne)
    exacts [exec_flag_writer h ne, exec_flag_writer h ne]

/-! ### What a write through the memory map leaves in the shadows -/

theorem touchedBits_subset (p : Product) (w : WriteScope) (a : Addr) : touchedBits p w a ⊆ requestBitsAt p a := by
  cases w with
  | whole => exact List.Subset.refl _
  | bit i => exact List.filter_subset_self _

theorem written_touched (s : State) (w : WriteScope) (a : Addr) (v : Byte) : (s.written w a v).touched =
    if touchedBits s.product w a = [] then s.touched else some (a, touchedBits s.product w a) := by
  simp only [State.written, State.noteWrite, storeAt_product, storeAt_touched]
  cases touchedBits s.product w a <;> rfl

theorem written_stale (s : State) (w : WriteScope) (a : Addr) (v : Byte) : (s.written w a v).stale =
    s.stale ++ staleBy s.product a (s.cell a) ((s.written w a v).cell a) := by
  rw [← storeAt_product s a v, ← storeAt_stale s a v]
  rfl

section Kept

variable {may : Effect → Prop} {s t : State}

theorem Update.product_eq (h : Update may s t) : t.product = s.product := by
  cases h with
  | written w a v => exact written_product s w a v
  | _ => rfl

theorem Reaches.product_eq (h : Reaches may s t) : t.product = s.product :=
  h.keeps (P := fun u => u.product = s.product) (fun _ _ up eq => up.product_eq.trans eq) rfl

/-- In a product without request bits no write names one. -/
theorem Update.touched_none (h : Update may s t) (noBits : ∀ a, requestBitsAt s.product a = [])
    (hs : s.touched = none) : t.touched = none := by
  cases h with
  | written w a v =>
    have nothing : touchedBits s.product w a = [] := List.subset_nil.mp (noBits a ▸ touchedBits_subset s.product w a)
    rw [written_touched, if_pos nothing, hs]
  | clearShadows => rfl
  | _ => exact hs

theorem Reaches.touched_none (h : Reaches may s t) (noBits : ∀ a, requestBitsAt s.product a = [])
    (hs : s.touched = none) : t.touched = none :=
  (h.keeps (P := fun u => u.product = s.product ∧ u.touched = none)
    (fun _ _ up ⟨eq, clear⟩ => ⟨up.product_eq.trans eq, up.touched_none (eq ▸ noBits) clear⟩) ⟨rfl, hs⟩).2

end Kept

/-! ### The shadows after an instruction -/

section Shadows

variable {i : Instr} {s t : State}

theorem takeInterrupt_shadowsClear {brk : Bool} {ret v : Addr} {accepted : Option IrqSource}
    (h : takeInterrupt brk ret v accepted s = .next t) : t.shadowsClear := by
  obtain ⟨u, w, target, -, -, -, rfl⟩ := takeInterrupt_eq_next.mp h
  exact ⟨rfl, rfl, rfl, rfl⟩

theorem exec_lastWasPlp (h : exec i s = .next t) : t.lastWasPlp = decide (mnemonic i = .plp) := by
  by_cases plp : mnemonic i = .plp
  · obtain rfl : i = .plp := by cases i <;> cases plp; rfl
    obtain ⟨p, -, marked⟩ := andThen_eq_next.mp h
    cases marked
    rfl
  · obtain ⟨n, reached⟩ := exec_reaches h
    have no : mnemonic i ∉ writers .plp := fun mem => plp (List.mem_singleton.mp mem)
    rw [decide_eq_false plp]
    exact reached.keeps (fun _ _ up => up.lastWasPlp_eq no) rfl

theorem exec_arith (h : mnemonic i = .adc ∨ mnemonic i = .sbc) : ∃ f o, ∀ s, exec i s = arithOp f o s := by
  rcases h with adc | sbc
  · obtain ⟨o, shape⟩ : ∃ o, shape i = (.adc, .operand o) := by cases i <;> cases adc <;> exact ⟨_, rfl⟩
    exact ⟨_, o, exec_adc shape⟩
  · obtain ⟨o, shape⟩ : ∃ o, shape i = (.sbc, .operand o) := by cases i <;> cases sbc <;> exact ⟨_, rfl⟩
    exact ⟨_, o, exec_sbc shape⟩

theorem exec_lastWasDecimal (h : exec i s = .next t) :
    t.lastWasDecimal = (decide (mnemonic i = .adc ∨ mnemonic i = .sbc) && s.flag .d) := by
  by_cases arith : mnemonic i = .adc ∨ mnemonic i = .sbc
  · obtain ⟨f, o, runs⟩ := exec_arith arith
    obtain ⟨m, a, u, -, -, -, rfl⟩ := arithOp_eq_next.mp ((runs s).symm.trans h)
    rw [decide_eq_true arith, Bool.true_and, markDecimal_lastWasDecimal]
  · obtain ⟨n, reached⟩ := exec_reaches h
    have no : mnemonic i ∉ writers .decimal := by simpa [writers] using arith
    rw [decide_eq_false arith, Bool.false_and]
    exact reached.keeps (fun _ _ up => up.lastWasDecimal_eq no) rfl

/-- No shadow of a request bit after an instruction that does not store, and none after BRK, whose pushes leave none. -/
theorem exec_requestShadows_clear (h : exec i s = .next t) (no : mnemonic i = .brk ∨ mnemonic i ∉ writers .memory) :
    t.touched = none ∧ t.stale = [] := by
  rcases no with brk | no
  · obtain rfl : i = .brk := by cases i <;> cases brk; rfl
    have trap : execBrk s = .next t := h
    obtain ⟨-, -, touched, stale⟩ := takeInterrupt_shadowsClear trap
    exact ⟨touched, stale⟩
  · obtain ⟨n, reached⟩ := exec_reaches h
    exact reached.keeps (fun _ _ up => up.requestShadows_clear no) ⟨rfl, rfl⟩

end Shadows

/-- Settles O56. -/
theorem shadowBookkeeping : Obligations.ShadowBookkeeping := by
  intro i s t h
  refine ⟨exec_lastWasPlp h, exec_lastWasDecimal h, fun noBits => ?_, fun mem => exec_requestShadows_clear h
    ((show ∀ m ∈ _, m = .brk ∨ m ∉ writers .memory by decide) _ mem)⟩
  obtain ⟨n, reached⟩ := exec_reaches h
  exact reached.touched_none noBits rfl

/-! ### The step as updates -/

/-- What a step may do besides reset: of the platform's own writes only those of a source's request bit (R306, R307) and
of a control register (R50). -/
def stepMay (p : Product) : Effect → Prop
  | .cell a => (∃ k ∈ p.irqSources, k.reqAddr = a) ∨ kindAt p a = .control
  | _ => True

theorem stepMay_of_writer {p : Product} {m : Mnemonic} (e : Effect) (h : m ∈ writers e) : stepMay p e := by
  cases e with
  | cell a => cases h
  | _ => trivial

section Step

variable {s t : State}

/-- Only a source of the product is accepted. -/
theorem acceptable_mem {k : IrqSource} (h : s.acceptable = some k) : k ∈ s.product.irqSources := by
  have pending : k ∈ s.pending := by
    unfold State.acceptable at h
    split at h
    · cases h
    · split at h
      · exact (highestOf_eq_some h).1
      · exact (highestOf_eq_some h).1
      · exact List.mem_of_mem_filter (highestOf_eq_some h).1
  exact List.mem_of_mem_filter pending

theorem exec_reaches_stepMay {i : Instr} (h : exec i s = .next t) : Reaches (stepMay s.product) s t := by
  obtain ⟨n, reached⟩ := exec_reaches h
  exact (begin_reaches s n).trans (reached.mono stepMay_of_writer)

theorem interruptEntry_reaches {k : IrqSource} (source : k ∈ s.product.irqSources) (h : interruptEntry k s = .next t) :
    Reaches (stepMay s.product) s t :=
  takeInterrupt_reaches trivial trivial trivial trivial trivial (fun _ eq => .inl ⟨k, source, by cases eq; rfl⟩) h

theorem cpuStep_reaches (h : cpuStep s = .next t) : Reaches (stepMay s.product) s t := by
  have ticked : Reaches (stepMay s.product) s s.tick := Reaches.refl.step .tick
  obtain ⟨k, accepted, entered⟩ | ⟨-, -, i, -, ran⟩ | ⟨-, -, rfl⟩ := cpuStep_eq_next h
  · exact ticked.trans (interruptEntry_reaches (s := s.tick) (acceptable_mem accepted) entered)
  · exact ticked.trans (exec_reaches_stepMay ran)
  · exact .refl

/-- A port or a device of the environment's shows the byte (R50 (b)). -/
theorem showDevice_of_input {a : Addr} (h : (∃ dir, s.kind a = .portLatch dir) ∨ s.kind a = .external) (v : Byte) :
    s.showDevice a v = s.setInput a v := by
  obtain ⟨dir, kind⟩ | kind := h <;> rw [State.showDevice, kind]

/-- A control register holds what it shows, but for its request and enable bits (R50). -/
theorem showDevice_of_control {a : Addr} (h : s.kind a = .control) (v : Byte) :
    s.showDevice a v = s.setCell a (s.controlShows a v) := by
  rw [State.showDevice, h]

theorem showDevice_of_no_device {a : Addr}
    (h : s.kind a = .ram ∨ s.kind a = .rom ∨ s.kind a = .portDirection ∨ s.kind a = .unmapped) (v : Byte) :
    s.showDevice a v = s := by
  obtain kind | kind | kind | kind := h <;> rw [State.showDevice, kind]

theorem applyTurn_setRequest {n : Nat} {k : IrqSource} (h : s.product.irqSources[n]? = some k) :
    applyTurn (.setRequest n) s = s.raiseRequest k := by
  rw [applyTurn, h]

theorem applyTurn_setRequest_none {n : Nat} (h : s.product.irqSources[n]? = none) :
    applyTurn (.setRequest n) s = s := by
  rw [applyTurn, h]

theorem showDevice_reaches (s : State) (a : Addr) (v : Byte) : Reaches (stepMay s.product) s (s.showDevice a v) := by
  unfold State.showDevice
  cases kind : s.kind a with
  | portLatch dir => exact Reaches.refl.step (.setInput a v)
  | external => exact Reaches.refl.step (.setInput a v)
  | control => exact Reaches.refl.step (.setCell a _ (.inr kind))
  | _ => exact .refl

theorem applyTurn_reaches {turn : Turn} (s : State) (ne : turn ≠ .reset) :
    Reaches (stepMay s.product) s (applyTurn turn s) := by
  cases turn with
  | cpu => exact .refl
  | setRequest n =>
    cases source : s.product.irqSources[n]? with
    | none => rw [applyTurn_setRequest_none source]; exact .refl
    | some k =>
      rw [applyTurn_setRequest source]
      exact Reaches.refl.step (.setCell _ _ (.inl ⟨k, List.mem_of_getElem? source, rfl⟩))
  | deviceInput a v => exact showDevice_reaches s a v
  | reset => exact absurd rfl ne

/-- Every step is a reset, or updates the machine may make. -/
theorem step_reaches (h : step s = .next t) :
    Reaches (stepMay s.product) s t ∨ ∃ rest, t = hardwareReset (s.withEnv rest) := by
  have turned (rest : List Turn) : Reaches (stepMay s.product) s (s.withEnv rest) := Reaches.refl.step (.withEnv rest)
  obtain ⟨r, ⟨-, rfl⟩ | ⟨rest, -, rfl⟩, cpu⟩ | ⟨turn, rest, -, -, rfl⟩ := step_eq_next h
  · exact .inl (cpuStep_reaches cpu)
  · exact .inl ((turned rest).trans (cpuStep_reaches cpu))
  · by_cases reset : turn = .reset
    · exact .inr ⟨rest, by rw [reset, applyTurn]⟩
    · exact .inl ((turned rest).trans (applyTurn_reaches (s.withEnv rest) reset))

end Step

/-- Settles O55. -/
theorem productFixed : Obligations.ProductFixed := by
  intro s t h
  obtain reached | ⟨rest, rfl⟩ := step_reaches h
  · exact reached.product_eq
  · rfl

/-! ### Memory under the updates and under reset -/

/-- The two memories in their canonical form. -/
def State.canonical (s : State) : Prop := Memory.wf s.mem = true ∧ Memory.wf s.inputs = true

section Kept

variable {may : Effect → Prop} {s t : State}

theorem Update.canonical (h : Update may s t) (hs : s.canonical) : t.canonical := by
  obtain ⟨mem, inputs⟩ := hs
  cases h with
  | written w a v => exact written_wf mem inputs w a v
  | setCell a v => exact ⟨set_wf mem a v, inputs⟩
  | setInput a v => exact ⟨mem, set_wf inputs a v⟩
  | _ => exact ⟨mem, inputs⟩

theorem written_rom {a : Addr} (rom : s.kind a = .rom) (w : WriteScope) (v : Byte) :
    (s.written w a v).cell a = s.cell a := by
  have held := holdsAt_written s w a v
  rw [holdsAt, rom] at held
  exact held.1

theorem Update.rom_eq (h : Update may s t) {a : Addr} (rom : s.kind a = .rom) (no : ¬may (.cell a)) :
    t.cell a = s.cell a := by
  cases h with
  | written w b v =>
    by_cases eq : a = b
    · exact eq ▸ written_rom rom w v
    · exact written_cell s w b a v eq
  | setCell b v permit =>
    have ne : b ≠ a := by rintro rfl; exact no permit
    rw [setCell_cell, if_neg ne]
  | _ => rfl

/-- A byte of ROM stays where the platform has no cause to change it. -/
theorem Reaches.rom_eq (h : Reaches may s t) {a : Addr} (rom : s.kind a = .rom) (no : ¬may (.cell a)) :
    t.cell a = s.cell a := by
  refine (h.keeps (P := fun u => u.product = s.product ∧ u.cell a = s.cell a) (fun u v up ⟨product, eq⟩ => ?_)
    ⟨rfl, rfl⟩).2
  have romThere : u.kind a = .rom := by rw [State.kind, product]; exact rom
  exact ⟨up.product_eq.trans product, (up.rom_eq romThere no).trans eq⟩

end Kept

/-- A byte after writes of one value at the addresses of a list. -/
theorem get_foldl_set (l : List Addr) (v : Byte) (m : Memory) (b : Addr) :
    Memory.get (l.foldl (fun m a => Memory.set m a v) m) b = if b ∈ l then v else Memory.get m b := by
  induction l generalizing m with
  | nil => simp
  | cons a l ih => rw [List.foldl_cons, ih, get_set]; grind

/-- An address has the kind of a region that holds it, unless nothing lies there. -/
theorem kindIn_region {a : Addr} {rs : List Region} (h : kindIn a rs ≠ .unmapped) :
    ∃ r ∈ rs, Region.holds r a = true ∧ r.kind = kindIn a rs := by
  induction rs with
  | nil => exact absurd rfl h
  | cons r rs ih =>
    by_cases holds : Region.holds r a = true
    · exact ⟨r, by simp, holds, by rw [kindIn, if_pos holds]⟩
    · rw [kindIn, if_neg holds] at h ⊢
      obtain ⟨q, mem, rest⟩ := ih h
      exact ⟨q, List.mem_cons_of_mem r mem, rest⟩

theorem mem_region_addrs {r : Region} {a : Addr} (h : Region.holds r a = true) : a ∈ Region.addrs r := by
  simp only [Region.holds, Bool.and_eq_true, decide_eq_true_eq] at h
  refine List.mem_map.mpr ⟨a.toNat - r.base, List.mem_range.mpr (by omega), ?_⟩
  rw [Nat.add_sub_cancel' h.1, BitVec.ofNat_toNat, BitVec.setWidth_eq]

theorem mem_directionAddrs {p : Product} {a : Addr} : a ∈ directionAddrs p ↔ kindAt p a = .portDirection := by
  refine ⟨fun h => of_decide_eq_true (List.mem_filter.mp h).2, fun h => ?_⟩
  obtain ⟨r, mem, holds, kind⟩ := kindIn_region (a := a) (rs := p.memoryMap) (by rw [← kindAt, h]; simp)
  have direction : r.kind = .portDirection := kind.trans h
  exact List.mem_filter.mpr ⟨List.mem_flatMap.mpr ⟨r, List.mem_filter.mpr ⟨mem, decide_eq_true direction⟩,
    mem_region_addrs holds⟩, decide_eq_true h⟩

/-- Reset makes every port an input and leaves every other byte (R341, log 25). -/
theorem hardwareReset_cell (s : State) (a : Addr) :
    (hardwareReset s).cell a = if s.kind a = .portDirection then allInputs s.product else s.cell a := by
  refine (get_foldl_set (directionAddrs s.product) (allInputs s.product) s.mem a).trans ?_
  simp only [mem_directionAddrs]
  rfl

theorem hardwareReset_shadowsClear (s : State) : (hardwareReset s).shadowsClear := ⟨rfl, rfl, rfl, rfl⟩

theorem hardwareReset_canonical {s : State} (h : s.canonical) : (hardwareReset s).canonical :=
  ⟨foldl_set_wf (directionAddrs s.product) id (fun _ => allInputs s.product) h.1, h.2⟩

theorem reqAddr_ne_rom {p : Product} (h : Product.wf p = true) {k : IrqSource} (source : k ∈ p.irqSources) :
    kindAt p k.reqAddr ≠ .rom := by
  simp only [Product.wf, Bool.and_eq_true, List.all_eq_true] at h
  obtain ⟨⟨⟨-, places⟩, -⟩, -⟩ := h
  obtain ⟨request, -⟩ := places k source
  intro rom
  simp [rom] at request

/-- Settles O54. -/
theorem romNeverChanges : Obligations.RomNeverChanges := by
  intro s t a wf rom h
  obtain reached | ⟨rest, rfl⟩ := step_reaches h
  · refine reached.rom_eq rom ?_
    rintro (⟨k, source, rfl⟩ | control)
    · exact reqAddr_ne_rom wf source rom
    · exact absurd (rom.symm.trans control) (by simp)
  · rw [hardwareReset_cell, withEnv_kind, rom]
    rfl

/-! ### The invariant -/

section Kept

variable {may : Effect → Prop} {s t : State}

theorem staleBy_named {p : Product} {a : Addr} {old new : Byte} {k : IrqSource} (h : k ∈ staleBy p a old new) :
    k ∈ p.irqSources ∧ k.reqAddr = k.enAddr := by
  simp only [staleBy, List.mem_filter, Bool.and_eq_true, decide_eq_true_eq] at h
  obtain ⟨source, ⟨⟨⟨⟨req, en⟩, -⟩, -⟩, -⟩, -⟩ := h
  exact ⟨source, req.trans en.symm⟩

theorem written_shadowsNamed (h : s.shadowsNamed) (w : WriteScope) (a : Addr) (v : Byte) :
    (s.written w a v).shadowsNamed := by
  obtain ⟨touched, stale⟩ := h
  constructor
  · intro b bits names
    rw [written_touched] at names
    rw [written_product]
    split at names
    · exact touched b bits names
    · next concerned =>
      cases names
      exact ⟨concerned, fun j mem => touchedBits_subset s.product w a mem⟩
  · intro k mem
    rw [written_stale] at mem
    rw [written_product]
    rcases List.mem_append.mp mem with old | new
    exacts [stale k old, staleBy_named new]

theorem shadowsNamed_of_shadowsClear (h : s.shadowsClear) : s.shadowsNamed := by
  obtain ⟨-, -, touched, stale⟩ := h
  simp [State.shadowsNamed, touched, stale]

theorem Update.shadowsNamed (h : Update may s t) (hs : s.shadowsNamed) : t.shadowsNamed := by
  cases h with
  | written w a v => exact written_shadowsNamed hs w a v
  | clearShadows => exact shadowsNamed_of_shadowsClear ⟨rfl, rfl, rfl, rfl⟩
  | _ => exact hs

end Kept

/-- What the invariant asks of the shadows and the run state: clear in Wait and Stop, never both of a PLP and of decimal
arithmetic. -/
def State.shadowsFit (s : State) : Prop :=
  (s.runState ≠ .running → s.shadowsClear) ∧ ¬(s.lastWasPlp = true ∧ s.lastWasDecimal = true)

theorem inv_iff {s : State} : Inv s ↔ s.canonical ∧ s.shadowsFit ∧ s.shadowsNamed := by
  unfold Inv State.canonical State.shadowsFit
  tauto

section ShadowsFit

variable {s t : State}

theorem shadowsFit_of_shadowsClear (h : s.shadowsClear) : s.shadowsFit := by
  obtain ⟨plp, rest⟩ := h
  exact ⟨fun _ => ⟨plp, rest⟩, by simp [plp]⟩

/-- STP and WIT alone leave Running, and they leave no shadow; no instruction is both a PLP and an arithmetic one. -/
theorem exec_shadowsFit {i : Instr} (running : s.runState = .running) (h : exec i s = .next t) : t.shadowsFit := by
  have plp := exec_lastWasPlp h
  have decimal := exec_lastWasDecimal h
  constructor
  · intro asleep
    rcases exec_leaves_running h running asleep with m | m <;>
      exact ⟨by simp [plp, m], by simp [decimal, m], exec_requestShadows_clear h (.inr (by rw [m]; decide))⟩
  · rintro ⟨isPlp, isDecimal⟩
    have m : mnemonic i = .plp := of_decide_eq_true (plp ▸ isPlp)
    simp [decimal, m] at isDecimal

theorem cpuStep_shadowsFit (hs : s.shadowsFit) (h : cpuStep s = .next t) : t.shadowsFit := by
  obtain ⟨k, -, entered⟩ | ⟨-, running, i, -, ran⟩ | ⟨-, -, rfl⟩ := cpuStep_eq_next h
  · exact shadowsFit_of_shadowsClear (takeInterrupt_shadowsClear entered)
  · exact exec_shadowsFit (s := s.tick) running ran
  · exact hs

theorem showDevice_eq (s : State) (a : Addr) (v : Byte) :
    s.showDevice a v = { s with mem := (s.showDevice a v).mem, inputs := (s.showDevice a v).inputs } := by
  unfold State.showDevice
  cases s.kind a <;> rfl

/-- Short of reset, a turn of the environment changes nothing but the bytes held and shown. -/
theorem applyTurn_eq {turn : Turn} (s : State) (ne : turn ≠ .reset) :
    applyTurn turn s = { s with mem := (applyTurn turn s).mem, inputs := (applyTurn turn s).inputs } := by
  cases turn with
  | cpu => rfl
  | setRequest n =>
    cases source : s.product.irqSources[n]? with
    | none => rw [applyTurn_setRequest_none source]
    | some k => rw [applyTurn_setRequest source]; rfl
  | deviceInput a v => exact showDevice_eq s a v
  | reset => exact absurd rfl ne

theorem applyTurn_shadowsFit (turn : Turn) (hs : s.shadowsFit) : (applyTurn turn s).shadowsFit := by
  by_cases reset : turn = .reset
  · exact reset ▸ shadowsFit_of_shadowsClear (hardwareReset_shadowsClear s)
  · rw [applyTurn_eq s reset]
    exact hs

theorem step_shadowsFit (hs : s.shadowsFit) (h : step s = .next t) : t.shadowsFit := by
  obtain ⟨r, ⟨-, rfl⟩ | ⟨rest, -, rfl⟩, cpu⟩ | ⟨turn, rest, -, -, rfl⟩ := step_eq_next h
  · exact cpuStep_shadowsFit hs cpu
  · exact cpuStep_shadowsFit (s := s.withEnv rest) hs cpu
  · exact applyTurn_shadowsFit (s := s.withEnv rest) turn hs

end ShadowsFit

/-- Settles O52: the memories and the names in the shadows are kept by every update and by reset. -/
theorem stepKeepsInv : Obligations.StepKeepsInv := by
  intro s t inv h
  obtain ⟨canonical, fit, named⟩ := inv_iff.mp inv
  have keptFit := step_shadowsFit fit h
  obtain reached | ⟨rest, rfl⟩ := step_reaches h
  · exact inv_iff.mpr ⟨reached.keeps (fun _ _ => Update.canonical) canonical, keptFit,
      reached.keeps (fun _ _ => Update.shadowsNamed) named⟩
  · exact inv_iff.mpr ⟨hardwareReset_canonical (s := s.withEnv rest) canonical, keptFit,
      shadowsNamed_of_shadowsClear (hardwareReset_shadowsClear _)⟩

/-- Settles O53: the memories are empty and the shadows clear. -/
theorem resetHasInv : Obligations.ResetHasInv :=
  have clear : State.reset.shadowsClear := ⟨rfl, rfl, rfl, rfl⟩
  inv_iff.mpr ⟨reset_mem_wf, shadowsFit_of_shadowsClear clear, shadowsNamed_of_shadowsClear clear⟩

/-! ### Reset and the environment's turns -/

theorem hardwareReset_flag_i (s : State) : (hardwareReset s).flag .i = true := by
  show getFlag 0x04 .i = true
  decide

/-- Nothing is acceptable while I is 1 (R310). -/
theorem acceptable_of_flag_i {s : State} (h : s.flag .i = true) : s.acceptable = none := by
  rw [State.acceptable, if_pos h]

/-- Settles O60. -/
theorem resetState : Obligations.ResetState := by
  refine ⟨⟨by decide, rfl, rfl, rfl, rfl, rfl⟩, fun s => ⟨hardwareReset_flag_i s, rfl,
    hardwareReset_shadowsClear s, rfl, fun start fixed => ?_, fun v vector => ?_,
    acceptable_of_flag_i (hardwareReset_flag_i s), fun a => ⟨fun other => ?_, fun direction j hj => ?_⟩⟩⟩
  · show s.startPc = start
    rw [State.startPc, fixed]
  · show s.startPc = _
    rw [State.startPc, vector, ← cat16_toNat, BitVec.ofNat_toNat, BitVec.setWidth_eq]
  · rw [hardwareReset_cell, if_neg other]
  · rw [hardwareReset_cell, if_pos direction, allInputs]
    cases s.product.outputIsOne <;> interval_cases j <;> rfl

theorem controlShows_bit (s : State) (a : Addr) (v : Byte) {j : Nat} (hj : j < 8) :
    (s.controlShows a v).getLsbD j =
      if j ∈ requestBitsAt s.product a ∨ j ∈ enableBitsAt s.product a then (s.cell a).getLsbD j else v.getLsbD j := by
  simp only [State.controlShows, BitVec.getLsbD_or, BitVec.getLsbD_and, BitVec.getLsbD_not, getLsbD_maskOf, hj,
    irqBitsAt, List.mem_append]
  split <;> simp [*]

theorem step_of_turn {s : State} {turn : Turn} {rest : List Turn} (h : s.env = turn :: rest) (ne : turn ≠ .cpu) :
    step s = .next (applyTurn turn (s.withEnv rest)) := by
  rw [step, turnStep, h]
  cases turn with
  | cpu => exact absurd rfl ne
  | _ => rfl

/-- Settles O9. -/
theorem environmentTurns : Obligations.EnvironmentTurns := by
  intro s rest
  refine ⟨fun n k env source => ⟨(s.withEnv rest).raiseRequest k, ?_, fun a ne => ?_, fun j hj => ?_, rfl⟩,
    fun a v env => ⟨(s.withEnv rest).showDevice a v, step_of_turn env (by simp), fun b out => ?_, fun input => ?_,
      fun control => ?_, fun noDevice => ?_, showDevice_eq (s.withEnv rest) a v⟩,
    fun env => step_of_turn env (by simp)⟩
  · rw [step_of_turn env (by simp), applyTurn_setRequest (s := s.withEnv rest) source]
  · rw [State.raiseRequest, setCell_cell, if_neg ne.symm, withEnv_cell]
  · rw [State.raiseRequest, setCell_cell, if_pos rfl, getLsbD_setBit, Bool.or_comm, decide_eq_true hj, Bool.true_and,
      withEnv_cell]
  · have ne : b ≠ a := by simpa using out
    exact ⟨showDevice_cell_of_ne v ne, showDevice_input_of_ne v ne⟩
  · rw [showDevice_of_input (s := s.withEnv rest) input, setInput_input, if_pos rfl]
    exact ⟨rfl, rfl⟩
  · rw [showDevice_of_control (s := s.withEnv rest) control]
    refine ⟨rfl, fun j hj => ?_⟩
    rw [setCell_cell, if_pos rfl]
    exact controlShows_bit (s.withEnv rest) a v hj
  · rw [showDevice_of_no_device (s := s.withEnv rest) noDevice]
    exact ⟨rfl, rfl⟩

end Sys2Proof.Machine

/-! Memory (20_memory.md): what a read gives and what a write leaves, by the kind of the address (R72, R75). -/

namespace Sys2Proof.Machine

/-! ### Reads by the kind of the address -/

theorem mapped_iff {s : State} {a : Addr} : s.mapped a = true ↔ s.kind a ≠ .unmapped := bne_iff_ne

theorem mapped_eq_false_iff {s : State} {a : Addr} : s.mapped a = false ↔ s.kind a = .unmapped := bne_eq_false_iff_eq

/-- RAM, ROM and control registers give the byte held. -/
theorem byteAt_of_memory {s : State} {a : Addr} (h : s.kind a = .ram ∨ s.kind a = .rom ∨ s.kind a = .control)
    (k : Access) : s.byteAt k a = s.cell a := by
  unfold State.byteAt
  rcases h with kind | kind | kind <;> rw [kind]

theorem byteAt_of_external {s : State} {a : Addr} (h : s.kind a = .external) (k : Access) :
    s.byteAt k a = s.input a := by
  rw [State.byteAt, h]

/-- A bit of a port is an output when its direction bit has the value that says so (R72, log 21). -/
theorem outputBits_bit (s : State) (dir : Addr) {j : Nat} (hj : j < 8) :
    (s.outputBits dir).getLsbD j = decide ((s.cell dir).getLsbD j = s.product.outputIsOne) := by
  unfold State.outputBits
  cases s.product.outputIsOne
  · simp only [Bool.false_eq_true, if_false, BitVec.getLsbD_not, hj]
    cases (s.cell dir).getLsbD j <;> rfl
  · simp only [if_true, Bool.decide_eq_true]

/-- A port latch gives the latch on output bits and the pin on input bits (R72). -/
theorem byteAt_portLatch_bit {s : State} {a dir : Addr} (h : s.kind a = .portLatch dir) (k : Access) {j : Nat}
    (hj : j < 8) : (s.byteAt k a).getLsbD j =
      if (s.cell dir).getLsbD j = s.product.outputIsOne then (s.cell a).getLsbD j else (s.input a).getLsbD j := by
  rw [State.byteAt, h]
  simp only [BitVec.getLsbD_or, BitVec.getLsbD_and, BitVec.getLsbD_not, outputBits_bit s dir hj, hj]
  split
  · next isOutput => simp [isOutput, -BitVec.getLsbD_eq_getElem]
  · next isInput => simp [isInput, -BitVec.getLsbD_eq_getElem]

/-- Settles O13: a mapped address gives `byteAt`, by the kind; an unmapped one faults. -/
theorem readByKind : Obligations.ReadByKind := by
  intro s k a
  have gives (mapped : s.kind a ≠ .unmapped) : readByte k a s = .next (s.byteAt k a) :=
    readByte_of_mapped (mapped_iff.mpr mapped) k
  refine ⟨fun memory => ?_, fun dir latch => ⟨_, gives (by simp [latch]), fun j hj => byteAt_portLatch_bit latch k hj⟩,
    fun direction => ⟨_, gives (by simp [direction])⟩, fun external => ?_,
    fun unmapped => readByte_of_unmapped (mapped_eq_false_iff.mpr unmapped) k⟩
  · have mapped : s.kind a ≠ .unmapped := by rcases memory with kind | kind | kind <;> simp [kind]
    rw [gives mapped, byteAt_of_memory memory]
  · rw [gives (by simp [external]), byteAt_of_external external]

/-! ### Writes by the kind of the address -/

theorem writeByte_of_mapped {s : State} {a : Addr} (h : s.mapped a = true) (w : WriteScope) (v : Byte) :
    writeByte w a v s = .next (s.written w a v) := writeByte_eq_next.mpr ⟨h, rfl⟩

theorem writeByte_of_unmapped {s : State} {a : Addr} (h : s.mapped a = false) (w : WriteScope) (v : Byte) :
    writeByte w a v s = .fault (.unmappedAccess a) := by simp [writeByte, h]

/-- A write changes nothing but the two memories and the shadows of request bits. -/
theorem written_eq (s : State) (w : WriteScope) (a : Addr) (v : Byte) :
    s.written w a v = { s with
      mem := (s.written w a v).mem, inputs := (s.written w a v).inputs
      touched := (s.written w a v).touched, stale := (s.written w a v).stale } := by
  unfold State.written State.storeAt
  cases s.kind a <;> rfl

/-- A write leaves every byte but the one at its address. -/
theorem written_bytesKept (s : State) (w : WriteScope) (a : Addr) (v : Byte) : bytesKept [a] s (s.written w a v) := by
  intro b out
  have ne : b ≠ a := by simpa using out
  exact ⟨written_cell s w a b v ne, written_input s w a b v ne⟩

/-- Settles O15. -/
theorem writeByKind : Obligations.WriteByKind := fun s w a v =>
  ⟨fun mapped => ⟨s.written w a v, writeByte_of_mapped mapped w v, holdsAt_written s w a v, written_bytesKept s w a v,
    written_eq s w a v⟩, fun unmapped => writeByte_of_unmapped unmapped w v⟩

end Sys2Proof.Machine

/-! Encoding and addressing (30_encoding.md): the decoder against the encoder, the opcode map, and what the addressing modes
name. -/

namespace Sys2Proof

/-! ### Words of two bytes -/

theorem zext16_eq_ofNat (b : Byte) : zext16 b = BitVec.ofNat 16 b.toNat :=
  BitVec.eq_of_toNat_eq (by have := b.isLt; rw [zext16_toNat, BitVec.toNat_ofNat]; omega)

theorem cat16_eq_ofNat (hh ll : Byte) : cat16 hh ll = BitVec.ofNat 16 (256 * hh.toNat + ll.toNat) := by
  rw [← cat16_toNat, BitVec.ofNat_toNat, BitVec.setWidth_eq]

/-! ### The decoder against the encoder -/

/-- Settles O1: by evaluation the map names the instruction again; an address is the word of its two bytes, the high byte of
the special page JSR's is 0xFF (R117), and a bit number below 8 is in the opcode (R123). -/
theorem decodeEncode : Obligations.DecodeEncode := by
  intro i rest wf
  cases i
  case clbAcc b | sebAcc b | clbZp b _ | sebZp b _ | bbcAcc b _ | bbsAcc b _ | bbcZp b _ _ | bbsZp b _ _ =>
    have bitNumber : b < 8 := of_decide_eq_true wf
    interval_cases b <;> rfl
  case jsrSp hhll =>
    have high : hiByte hhll = 0xFF := of_decide_eq_true wf
    have special : cat16 0xFF (loByte hhll) = hhll := by rw [← high, cat16_hiByte_loByte]
    exact congrArg (Except.ok ∘ Instr.jsrSp) special
  all_goals
    -- what the decoder evaluates to, an address still as its two bytes
    refine Eq.trans (b := .ok _) rfl ?_
    simp only [cat16_hiByte_loByte]

/-- The operand bytes a form has, of the two after the opcode (R102). -/
def OpForm.operands : OpForm → Byte → Byte → List Byte
  | .one _, _, _ => []
  | .two _, b1, _ => [b1]
  | .three _, b1, b2 => [b1, b2]

/-- What decodes begins with a defined opcode and the operand bytes of its form, and is what the form reads from them. -/
theorem decode_eq_ok_form {bytes : List Byte} {i : Instr} (h : decode bytes = .ok i) :
    ∃ op f b1 b2 rest, decodeOp op = some f ∧ bytes = op :: f.operands b1 b2 ++ rest ∧ f.instr b1 b2 = i := by
  cases bytes with
  | nil => cases h
  | cons op tail =>
    cases hf : decodeOp op with
    | none => simp [decode, hf] at h
    | some f =>
      simp only [decode, hf] at h
      match f, tail, h with
      | .one i, tail, h => exact ⟨op, _, 0, 0, tail, hf, rfl, Except.ok.inj h⟩
      | .two g, b1 :: rest, h => exact ⟨op, _, b1, 0, rest, hf, rfl, Except.ok.inj h⟩
      | .three g, b1 :: b2 :: rest, h => exact ⟨op, _, b1, b2, rest, hf, rfl, Except.ok.inj h⟩

/-- An opcode byte is its five low bits and its three high bits (R123). -/
theorem bitOpcode_mod_div (op : Byte) : bitOpcode (op.toNat % 32) (op.toNat / 32) = op := by
  rw [bitOpcode, Nat.div_add_mod, BitVec.ofNat_toNat, BitVec.setWidth_eq]

/-- What the bit group reads is well formed, and is encoded as the opcode and the operand bytes of its form (R123). -/
theorem bitGroup_wf_encode {op : Byte} (h : op.toNat % 4 = 3) (b1 b2 : Byte) :
    ((bitGroup op).instr b1 b2).wf = true ∧ encode ((bitGroup op).instr b1 b2) = op :: (bitGroup op).operands b1 b2 := by
  have bitNumber : op.toNat / 32 < 8 := by have := op.isLt; omega
  have opcode (base : Nat) (low : op.toNat % 32 = base) : bitOpcode base (op.toNat / 32) = op := by
    rw [← low, bitOpcode_mod_div]
  unfold bitGroup
  split
  case h_8 =>
    -- of the eight bases with low bits 11, the only one not named by an earlier alternative
    have low : op.toNat % 32 = 0x1F := by grind
    exact ⟨decide_eq_true bitNumber, congrArg (· :: _) (opcode _ low)⟩
  all_goals
    next low => exact ⟨decide_eq_true bitNumber, congrArg (· :: _) (opcode _ low)⟩

/-- What the rest of the opcode map reads is well formed, and is encoded as the opcode and the operand bytes of its form:
checked opcode by opcode, whatever the operand bytes. -/
theorem plainGroup_wf_encode {op : Byte} {f : OpForm} (h : plainGroup op = some f) (b1 b2 : Byte) :
    (f.instr b1 b2).wf = true ∧ encode (f.instr b1 b2) = op :: f.operands b1 b2 := by
  obtain ⟨n, rfl⟩ : ∃ n : Fin 256, op = BitVec.ofFin n := ⟨op.toFin, rfl⟩
  fin_cases n <;> cases h <;>
    simp only [OpForm.instr, Instr.wf, encode, OpForm.operands, hiByte_cat16, loByte_cat16, decide_true] <;>
    exact ⟨trivial, rfl⟩

theorem decodeOp_wf_encode {op : Byte} {f : OpForm} (h : decodeOp op = some f) (b1 b2 : Byte) :
    (f.instr b1 b2).wf = true ∧ encode (f.instr b1 b2) = op :: f.operands b1 b2 := by
  unfold decodeOp at h
  split at h
  · next group =>
    cases h
    exact bitGroup_wf_encode group b1 b2
  · exact plainGroup_wf_encode h b1 b2

/-- Settles O2: the bytes at the head are the opcode and its form's operands, and so is the encoding of what they read. -/
theorem decodeReadsEveryByte : Obligations.DecodeReadsEveryByte := by
  intro bytes i h
  obtain ⟨op, f, b1, b2, rest, hf, rfl, rfl⟩ := decode_eq_ok_form h
  obtain ⟨wf, encoded⟩ := decodeOp_wf_encode hf b1 b2
  have length : (encode (f.instr b1 b2)).length = Machine.instrLength (f.instr b1 b2) := by
    rw [encoded, (decodeOp_head_length hf b1 b2).2]
    cases f <;> rfl
  exact ⟨wf, by rw [← length, encoded, List.drop_left], length⟩

/-! ### The opcode map -/

/-- Settles O3: the opcode map looked up at each of the 256 bytes. -/
theorem undefinedOpcodes : Obligations.UndefinedOpcodes := by
  intro op
  obtain ⟨n, rfl⟩ : ∃ n : Fin 256, op = BitVec.ofFin n := ⟨op.toFin, rfl⟩
  fin_cases n <;> decide

/-- Settles O4: the decoder evaluated on each word. -/
theorem manualWordsDecode : Obligations.ManualWordsDecode := by
  unfold Obligations.ManualWordsDecode
  and_intros <;> rfl

end Sys2Proof

namespace Sys2Proof.Machine

/-! ### Effective addresses -/

/-- Settles O10: sums of bytes wrap within the zero page (R108, R109), sums with an address at 65536 (R122). -/
theorem directAddresses : Obligations.DirectAddresses := by
  intro s zz hhll
  have zeroPage (x : Byte) : zext16 (zz + x) = BitVec.ofNat 16 ((zz.toNat + x.toNat) % 256) := by
    rw [zext16_eq_ofNat, BitVec.toNat_add]
  have indexed (x : Byte) : hhll + zext16 x = BitVec.ofNat 16 ((hhll.toNat + x.toNat) % 65536) := by
    exact BitVec.eq_of_toNat_eq (by rw [BitVec.toNat_add, zext16_toNat, BitVec.toNat_ofNat, Nat.mod_mod])
  exact ⟨congrArg _ (zext16_eq_ofNat zz), congrArg _ (zeroPage s.x), congrArg _ (zeroPage s.y), rfl,
    congrArg _ (indexed s.x), congrArg _ (indexed s.y)⟩

/-- A zero-page word at 0xFF is refused by the product that says so (R121). -/
theorem zpNext_of_refuse {s : State} {p : Byte} (hp : p = 0xFF) (h : s.product.zpPtrWrap = .refuse) :
    zpNext p s = .refused .zpPointerAtFF := by
  rw [zpNext, if_pos hp, h]

theorem zpNext_of_ne {s : State} {p : Byte} (hp : p ≠ 0xFF) :
    zpNext p s = .next (BitVec.ofNat 16 (p.toNat + 1)) := by
  have noWrap : (p + 1).toNat = p.toNat + 1 := by bv_omega
  rw [zpNext, if_neg hp, zext16_eq_ofNat, noWrap]

/-- Settles O11, setting by setting; under the unstated one the model's free choice decides (log 5). -/
theorem secondPointerByte : Obligations.SecondPointerByte := by
  intro s p
  refine ⟨zpNext_of_ne, fun hp wrap => ?_, fun hp carry => ?_, zpNext_of_refuse, fun hp unstated => ?_⟩
  · rw [zpNext, if_pos hp, wrap]
  · rw [zpNext, if_pos hp, carry]
  · rw [zpNext, if_pos hp, unstated]
    cases Config.zpPointerCarries
    exacts [.inl rfl, .inr rfl]

/-! ### Zero-page pointers -/

theorem readZpWord_of_mapped {s : State} {p : Byte} {hi : Addr} (h : zpNext p s = .next hi)
    (lowMapped : s.mapped (zext16 p) = true) (highMapped : s.mapped hi = true) :
    readZpWord p s = .next (BitVec.ofNat 16
      (256 * (s.byteAt .pointerHi hi).toNat + (s.byteAt .pointerLo (zext16 p)).toNat)) :=
  readZpWord_eq_next.mpr ⟨hi, h, lowMapped, highMapped, (cat16_eq_ofNat ..).symm⟩

theorem readZpWord_of_refuse {s : State} {p : Byte} (hp : p = 0xFF) (h : s.product.zpPtrWrap = .refuse) :
    readZpWord p s = .refused .zpPointerAtFF := by
  rw [readZpWord, zpNext_of_refuse hp h, andThen_refused]

/-- The low byte is read first (log 30), so its address is the one named where it is unmapped. -/
theorem readZpWord_of_low_unmapped {s : State} {p : Byte} {hi : Addr} (h : zpNext p s = .next hi)
    (lowUnmapped : s.mapped (zext16 p) = false) : readZpWord p s = .fault (.unmappedAccess (zext16 p)) := by
  rw [readZpWord, h, andThen_next, readWord, readByte_of_unmapped lowUnmapped, andThen_fault]

theorem readZpWord_of_high_unmapped {s : State} {p : Byte} {hi : Addr} (h : zpNext p s = .next hi)
    (lowMapped : s.mapped (zext16 p) = true) (highUnmapped : s.mapped hi = false) :
    readZpWord p s = .fault (.unmappedAccess hi) := by
  rw [readZpWord, h, andThen_next, readWord, readByte_of_mapped lowMapped, andThen_next,
    readByte_of_unmapped highUnmapped, andThen_fault]

theorem effAddr_indX (zz : Byte) (s : State) : effAddr (.indX zz) s = readZpWord (zz + s.x) s := rfl

theorem effAddr_indY (zz : Byte) (s : State) :
    effAddr (.indY zz) s = andThen (readZpWord zz s) fun p => .next (p + zext16 s.y) := rfl

/-- Settles O12: both modes go through the word at a zero-page address, indexed before or after. -/
theorem indirectAddresses : Obligations.IndirectAddresses := by
  intro s zz
  simp only [effAddr_indX, effAddr_indY]
  refine ⟨fun _ => readZpWord_of_mapped, fun hi next low high => ?_, fun refuse hp => readZpWord_of_refuse hp refuse,
    fun refuse hp => ?_, fun _ next => ⟨readZpWord_of_low_unmapped next, readZpWord_of_high_unmapped next⟩,
    fun hi next => ⟨fun low => ?_, fun low high => ?_⟩⟩
  · rw [readZpWord_of_mapped next low high, andThen_next, zext16_eq_ofNat s.y, ← BitVec.ofNat_add]
  · rw [readZpWord_of_refuse hp refuse, andThen_refused]
  · rw [readZpWord_of_low_unmapped next low, andThen_fault]
  · rw [readZpWord_of_high_unmapped next low high, andThen_fault]

/-! ### The operand byte -/

/-- Settles O14 (`operandByte` is the model's own name). -/
theorem operandByte_imm_and_mem : Obligations.OperandByte := by
  intro s
  refine ⟨fun nn => operandByte_imm nn s, fun m ea address mapped => ?_, fun m ea address unmapped => ?_⟩
  · exact operandByte_mem_eq_next.mpr ⟨ea, address, mapped, rfl⟩
  · rw [operandByte, address, andThen_next, readByte_of_unmapped unmapped]

/-! ### A product without MUL and DIV -/

/-- Settles O30: both instructions ask for HAS_MULDIV first (R142). -/
theorem mulDivAbsent : Obligations.MulDivAbsent := by
  intro s zz absent
  have notPresent : ¬ s.product.hasMulDiv = true := by simp [absent]
  exact ⟨if_neg notPresent, if_neg notPresent⟩

end Sys2Proof.Machine

/-! Data transfer (40_data_transfer.md): the loads, the stores and the transfers between registers. -/

namespace Sys2Proof.Machine

/-! ### One byte register written -/

/-- The model's write of the byte register a proof names. -/
def putReg : Reg → Byte → State → State
  | .a => putA
  | .x => putX
  | .y => putY
  | .s => putS

theorem putReg_reg (q r : Reg) (v : Byte) (t : State) : (putReg r v t).reg q = if q = r then v else t.reg q := by
  cases r <;> cases q <;> rfl

@[simp] theorem putReg_reg_same (r : Reg) (v : Byte) (t : State) : (putReg r v t).reg r = v := by
  rw [putReg_reg, if_pos rfl]

@[simp] theorem putReg_pc (r : Reg) (v : Byte) (t : State) : (putReg r v t).pc = t.pc := by cases r <;> rfl

theorem putReg_shadowsClear {t : State} (r : Reg) (v : Byte) (h : t.shadowsClear) : (putReg r v t).shadowsClear := by
  cases r <;> exact h

theorem keeps_putReg {regs : List Reg} {flags : List Flag} {bytes : List Addr} {s t : State} {r : Reg}
    (h : keeps regs flags bytes s t) (mem : r ∈ regs) (v : Byte) : keeps regs flags bytes s (putReg r v t) := by
  obtain ⟨keptRegs, rest⟩ := h
  refine ⟨fun q out => ?_, by cases r <;> exact rest⟩
  have ne : q ≠ r := fun eq => out (eq ▸ mem)
  rw [putReg_reg, if_neg ne, keptRegs q out]

theorem setNZ_reg (t : State) (v : Byte) (r : Reg) : (t.setNZ v).reg r = t.reg r := by cases r <;> rfl

theorem keeps_begin_of (regs : List Reg) (flags : List Flag) (bytes : List Addr) (s : State) (n : Nat) :
    keeps regs flags bytes s (s.begin n) := keeps_mono (keeps_begin s n) (by simp) (by simp) (by simp)

theorem begin_shadowsClear (s : State) (n : Nat) : (s.begin n).shadowsClear := ⟨rfl, rfl, rfl, rfl⟩

/-! ### The shapes of effect -/

/-- An instruction that writes one register, and no flag, writes nothing else. -/
theorem writesRegs_of_putReg {i : Instr} {s : State} {r : Reg} {v : Byte}
    (h : exec i s = .next (putReg r v (s.begin (instrLength i)))) :
    writesRegs i s [r] [] fun t => t.reg r = v :=
  ⟨_, h, putReg_reg_same r v _, putReg_pc r v _, putReg_shadowsClear r v (begin_shadowsClear s _),
    keeps_putReg (keeps_begin_of ..) (by simp) v⟩

/-- An instruction that writes one register, with N and Z of the byte, writes nothing else. -/
theorem writesRegs_of_putReg_setNZ {i : Instr} {s : State} {r : Reg} {v : Byte}
    (h : exec i s = .next ((putReg r v (s.begin (instrLength i))).setNZ v)) :
    writesRegs i s [r] [.n, .z] fun t => t.reg r = v ∧ nzOf v t :=
  ⟨_, h, ⟨(setNZ_reg ..).trans (putReg_reg_same ..), nzOf_setNZ _ v⟩, putReg_pc r v _,
    putReg_shadowsClear r v (begin_shadowsClear s _),
    keeps_setNZ (keeps_putReg (keeps_begin_of ..) (by simp) v) (by simp) (by simp) v⟩

/-- An instruction whose one effect is a write through the memory map stores the byte and nothing else. -/
theorem writesByte_of_written {i : Instr} {s : State} {a : Addr} {v : Byte}
    (h : exec i s = .next ((s.begin (instrLength i)).written .whole a v)) : writesByte i s a v :=
  ⟨_, h, stored_begin s _ .whole a v, written_pc .., keeps_written s _ .whole a v⟩

/-! ### The loads -/

/-- Settles O16: the destination takes the operand, whatever T is, before N and Z are written. -/
theorem ldaTakesOperand : Obligations.LdaTakesOperand := by
  intro i o s m lda operand ready
  obtain ⟨u, written, took, pc, -, -, kept⟩ := writeDst_of_ready s (operandLength o) m ready
  have runs : exec i s = .next (u.setNZ m) := by
    rw [exec_lda lda]
    exact loadDstOp_eq_next.mpr ⟨m, u, operand, written, rfl⟩
  refine ⟨u.setNZ m, runs, dstTook_of_eq took rfl rfl rfl rfl, nzOf_setNZ u m, ?_, ?_⟩
  · rw [instrLength_of_shape lda]
    exact pc
  · exact keeps_setNZ (keeps_mono kept (by simp) (by simp) (by simp)) (by simp) (by simp) m

/-- A load of a register in any mode writes it and N and Z, and does not ask for T (R154, R155). -/
theorem writesRegs_of_loadOp {i : Instr} {s : State} {r : Reg} {o : Operand} {m : Byte}
    (runs : exec i s = loadOp (putReg r) o s) (length : instrLength i = operandLength o)
    (operand : operandByte o s = .next m) : writesRegs i s [r] [.n, .z] fun t => t.reg r = m ∧ nzOf m t := by
  refine writesRegs_of_putReg_setNZ ?_
  rw [runs, length]
  exact loadOp_eq_next.mpr ⟨m, operand, rfl⟩

/-- Settles O17. -/
theorem ldxLdyTakeOperand : Obligations.LdxLdyTakeOperand := fun _ _ s _ operand =>
  ⟨fun ldx => writesRegs_of_loadOp (r := .x) (exec_ldx ldx s) (instrLength_of_shape ldx) operand,
    fun ldy => writesRegs_of_loadOp (r := .y) (exec_ldy ldy s) (instrLength_of_shape ldy) operand⟩

/-! ### The stores -/

/-- A store instruction in any mode is one write at its effective address. -/
theorem writesByte_of_storeOp {i : Instr} {s : State} {m : AddrMode} {ea : Addr} {v : Byte}
    (runs : exec i s = storeOp m v s) (length : instrLength i = modeLength m) (address : effAddr m s = .next ea)
    (mapped : s.mapped ea = true) : writesByte i s ea v := by
  refine writesByte_of_written ?_
  rw [runs, length]
  exact storeOp_eq_next.mpr ⟨ea, address, mapped, rfl⟩

/-- Settles O18. -/
theorem storesStore : Obligations.StoresStore := by
  intro i s
  refine ⟨fun m ea address mapped => ⟨fun sta => ?_, fun stx => ?_, fun sty => ?_⟩, fun nn zz ldm mapped => ?_⟩
  · exact writesByte_of_storeOp (exec_sta sta s) (instrLength_of_shape sta) address mapped
  · exact writesByte_of_storeOp (exec_stx stx s) (instrLength_of_shape stx) address mapped
  · exact writesByte_of_storeOp (exec_sty sty s) (instrLength_of_shape sty) address mapped
  · refine writesByte_of_written ?_
    rw [exec_ldm ldm, instrLength_of_shape ldm]
    exact writeByte_of_mapped (s := s.begin 3) mapped .whole nn

/-! ### The transfers between registers -/

/-- An instruction without operands takes what its mnemonic says, whatever T is (R363). -/
theorem cycles_of_implied {i : Instr} {m : Mnemonic} (h : shape i = (m, .implied)) (s : State) :
    cycles i s = impliedCycles m := by
  have unlengthened : tCycles m = 0 ∧ branchTaken i s = false := by cases i <;> cases h <;> exact ⟨rfl, rfl⟩
  simp [cycles, mnemonic, h, unlengthened, baseCycles]

/-- Settles O19: each transfer writes one register with another's byte, and all but TXS N and Z of it. -/
theorem transfers : Obligations.Transfers := by
  intro s
  exact ⟨⟨rfl, cycles_of_implied (m := .tax) rfl s, writesRegs_of_putReg_setNZ (r := .x) rfl⟩,
    ⟨rfl, cycles_of_implied (m := .txa) rfl s, writesRegs_of_putReg_setNZ (r := .a) rfl⟩,
    ⟨rfl, cycles_of_implied (m := .tay) rfl s, writesRegs_of_putReg_setNZ (r := .y) rfl⟩,
    ⟨rfl, cycles_of_implied (m := .tya) rfl s, writesRegs_of_putReg_setNZ (r := .a) rfl⟩,
    ⟨rfl, cycles_of_implied (m := .tsx) rfl s, writesRegs_of_putReg_setNZ (r := .x) rfl⟩,
    ⟨rfl, cycles_of_implied (m := .txs) rfl s, writesRegs_of_putReg (r := .s) rfl⟩⟩

end Sys2Proof.Machine

/-! Arithmetic (41_arithmetic.md): ADC and SBC in both modes, INC and DEC, the steps of X and Y, MUL and DIV. -/

namespace Sys2Proof.Machine

/-! ### ADC and SBC: the shared effect -/

/-- N, V, Z and C are those of an outcome of ADC or SBC. -/
def arithFlagsOf (o : Arith) (t : State) : Prop :=
  t.flag .n = o.n ∧ t.flag .v = o.v ∧ t.flag .z = o.z ∧ t.flag .c = o.c

theorem arithFlagsOf_setArith (t : State) (o : Arith) : arithFlagsOf o (t.setArith o) := by
  simp [arithFlagsOf]

theorem setArith_markDecimal_reg (t : State) (o : Arith) (d : Bool) (r : Reg) :
    ((t.setArith o).markDecimal d).reg r = t.reg r := by cases r <;> rfl

/-- ADC and SBC in any mode: the destination takes the outcome's byte, N, V, Z and C are the outcome's, and the shadow of R354
says whether D was 1. -/
theorem writesDst_of_arithOp {i : Instr} {f : State → Byte → Byte → Arith} {o : Operand} {s : State} {m : Byte}
    (runs : exec i s = arithOp f o s) (length : instrLength i = operandLength o) (operand : operandByte o s = .next m)
    (ready : dstReady s = true) :
    writesDst i s (f s (dstByte s) m).r [.n, .v, .z, .c] fun t =>
      arithFlagsOf (f s (dstByte s) m) t ∧ t.lastWasDecimal = s.flag .d ∧ t.lastWasPlp = false := by
  obtain ⟨u, written, took, pc, noPlp, -, kept⟩ := writeDst_of_ready s (operandLength o) (f s (dstByte s) m).r ready
  refine ⟨(u.setArith (f s (dstByte s) m)).markDecimal (s.flag .d), ?_, dstTook_of_eq took rfl rfl rfl rfl,
    ⟨arithFlagsOf_setArith u _, rfl, noPlp⟩, ?_, ?_⟩
  · rw [runs]
    exact arithOp_eq_next.mpr ⟨m, dstByte s, u, operand, readDst_of_ready ready, written, rfl⟩
  · rw [length]
    exact pc
  · refine keeps_of_eq kept (setArith_markDecimal_reg u _ _) (fun g out => ?_) rfl rfl rfl rfl rfl rfl
    simp only [List.mem_cons, List.not_mem_nil, or_false, not_or] at out
    obtain ⟨notN, notV, notZ, notC⟩ := out
    rw [markDecimal_flag, setArith_flag, if_neg notC, if_neg notZ, if_neg notV, if_neg notN]

/-- An effect that says more of the state after says less of it too. -/
theorem writesDst_imp {i : Instr} {s : State} {r : Byte} {flags : List Flag} {post post' : State → Prop}
    (h : writesDst i s r flags post) (imp : ∀ t, post t → post' t) : writesDst i s r flags post' := by
  obtain ⟨t, runs, took, holds, rest⟩ := h
  exact ⟨t, runs, took, imp t holds, rest⟩

/-- ADC in any mode, by the outcome it computes (R33). -/
theorem writesDst_adc {i : Instr} {o : Operand} {s : State} {m : Byte} (adc : shape i = (.adc, .operand o))
    (operand : operandByte o s = .next m) (ready : dstReady s = true) :
    writesDst i s (s.adcOutcome (dstByte s) m).r [.n, .v, .z, .c] fun t =>
      arithFlagsOf (s.adcOutcome (dstByte s) m) t ∧ t.lastWasDecimal = s.flag .d ∧ t.lastWasPlp = false :=
  writesDst_of_arithOp (exec_adc adc s) (instrLength_of_shape adc) operand ready

/-- SBC in any mode, by the outcome it computes (R33). -/
theorem writesDst_sbc {i : Instr} {o : Operand} {s : State} {m : Byte} (sbc : shape i = (.sbc, .operand o))
    (operand : operandByte o s = .next m) (ready : dstReady s = true) :
    writesDst i s (s.sbcOutcome (dstByte s) m).r [.n, .v, .z, .c] fun t =>
      arithFlagsOf (s.sbcOutcome (dstByte s) m) t ∧ t.lastWasDecimal = s.flag .d ∧ t.lastWasPlp = false :=
  writesDst_of_arithOp (exec_sbc sbc s) (instrLength_of_shape sbc) operand ready

/-! ### Binary mode -/

theorem adcOutcome_of_binary {s : State} (h : s.flag .d = false) (a m : Byte) :
    s.adcOutcome a m = addBinary a m (s.flag .c) := if_neg (by simp [h])

theorem sbcOutcome_of_binary {s : State} (h : s.flag .d = false) (a m : Byte) :
    s.sbcOutcome a m = subBinary a m (s.flag .c) := if_neg (by simp [h])

/-- The borrow SBC takes, the complement of C (R183). -/
theorem one_sub_carry (c : Bool) : (1 : Int) - (c.toNat : Int) = if c then 0 else 1 := by cases c <;> rfl

/-- What the outcome's four flags say where N and Z are of the byte `r`, V of a signed value and C of a condition. -/
theorem binaryFlags_iff {o : Arith} {t : State} {r : Byte} {signed : Int} {carry : Prop} [Decidable carry]
    (h : arithFlagsOf o t) (hn : o.n = r.msb) (hz : o.z = decide (r = 0)) (hc : o.c = decide carry)
    (hv : o.v = (decide (127 < signed) || decide (signed < -128))) :
    nzOf r t ∧ (t.flag .c = true ↔ carry) ∧ (t.flag .v = true ↔ signed > 127 ∨ signed < -128) := by
  obtain ⟨n, v, z, c⟩ := h
  refine ⟨⟨?_, z.trans hz⟩, ?_, ?_⟩
  · rw [n, hn, msb_eq_getLsbD]
  · rw [c, hc, decide_eq_true_iff]
  · rw [v, hv, Bool.or_eq_true, decide_eq_true_iff, decide_eq_true_iff]

theorem addBinary_r (a m : Byte) (c : Bool) :
    (addBinary a m c).r = BitVec.ofNat 8 (a.toNat + m.toNat + c.toNat) := rfl

theorem subBinary_r (a m : Byte) (c : Bool) :
    (subBinary a m c).r = BitVec.ofInt 8 ((a.toNat : Int) - m.toNat - (1 - (c.toNat : Int))) := rfl

/-- Settles O22: without D the outcome is the binary one, whose fields the statement reads. -/
theorem adcBinary : Obligations.AdcBinary := by
  intro i o s m adc operand ready binary
  have effect := writesDst_adc adc operand ready
  rw [adcOutcome_of_binary binary, addBinary_r] at effect
  exact writesDst_imp effect fun t ⟨flags, _⟩ => binaryFlags_iff flags rfl rfl rfl rfl

/-- Settles O23: the model's borrow is the complement of C. -/
theorem sbcBinary : Obligations.SbcBinary := by
  intro i o s m sbc operand ready binary
  have effect := writesDst_sbc sbc operand ready
  rw [sbcOutcome_of_binary binary, subBinary_r] at effect
  simp only [← one_sub_carry]
  exact writesDst_imp effect fun t ⟨flags, _⟩ => binaryFlags_iff flags rfl rfl rfl rfl

/-! ### Decimal mode -/

theorem adcOutcome_of_decimal {s : State} (h : s.flag .d = true) (a m : Byte) :
    s.adcOutcome a m = addDecimal s.draws a m (s.flag .c) := if_pos h

theorem sbcOutcome_of_decimal {s : State} (h : s.flag .d = true) (a m : Byte) :
    s.sbcOutcome a m = subDecimal s.draws a m (s.flag .c) := if_pos h

/-- Two decimal digits in the nibbles of a byte (R182). -/
theorem nibbles_of_digits {h l : Nat} (hh : h < 10) (hl : l < 10) :
    hiNibble (BitVec.ofNat 8 (16 * h + l)) = h ∧ loNibble (BitVec.ofNat 8 (16 * h + l)) = l := by
  simp only [hiNibble, loNibble, BitVec.toNat_ofNat]
  omega

theorem validBcd_of_digits {h l : Nat} (hh : h < 10) (hl : l < 10) :
    validBcd (BitVec.ofNat 8 (16 * h + l)) = true := by
  obtain ⟨hi, lo⟩ := nibbles_of_digits hh hl
  simp only [validBcd, hi, lo, Bool.and_eq_true, decide_eq_true_eq]
  omega

theorem decOfByte_of_digits {h l : Nat} (hh : h < 10) (hl : l < 10) :
    decOfByte (BitVec.ofNat 8 (16 * h + l)) = 10 * h + l := by
  obtain ⟨hi, lo⟩ := nibbles_of_digits hh hl
  rw [decOfByte, hi, lo]

/-- On decimal operands the result and C are not free (R182). -/
theorem addDecimal_of_valid {a m : Byte} (ha : validBcd a = true) (hm : validBcd m = true) (draw : Nat) (c : Bool) :
    addDecimal draw a m c = decimalOutcome draw (byteOfDec ((decOfByte a + decOfByte m + c.toNat) % 100))
      (decide (99 < decOfByte a + decOfByte m + c.toNat)) := by
  rw [addDecimal, ha, hm]
  rfl

/-- On decimal operands the result and C are not free (R184). -/
theorem subDecimal_of_valid {a m : Byte} (ha : validBcd a = true) (hm : validBcd m = true) (draw : Nat) (c : Bool) :
    subDecimal draw a m c =
      decimalOutcome draw (byteOfDec (((decOfByte a : Int) - decOfByte m - (1 - (c.toNat : Int))) % 100).toNat)
        (decide (0 ≤ (decOfByte a : Int) - decOfByte m - (1 - (c.toNat : Int)))) := by
  rw [subDecimal, ha, hm]
  rfl

/-- A sum below 200 is its two lower digits and its carry. -/
theorem decimal_sum_split {sum : Nat} (h : sum < 200) : sum = sum % 100 + (if decide (99 < sum) then 100 else 0) := by
  simp only [decide_eq_true_eq]
  split <;> omega

/-- The difference of two-digit numbers is its two lower digits, 100 being added where there is a borrow. -/
theorem decimal_difference_split {x y : Nat} (hx : x < 100) (hy : y < 100) (c : Bool) :
    x + (if decide (0 ≤ (x : Int) - y - (1 - (c.toNat : Int))) then 0 else 100) =
      (((x : Int) - y - (1 - (c.toNat : Int))) % 100).toNat + y + (if c then 0 else 1) := by
  have carryIn := Bool.toNat_le c
  have borrow : ((if c then 0 else 1 : Nat) : Int) = 1 - (c.toNat : Int) := by cases c <;> rfl
  simp only [decide_eq_true_eq]
  split <;> omega

/-- Settles O24: the digits of the bytes are the numbers added or subtracted, and `k` is the result modulo 100. -/
theorem arithDecimal : Obligations.ArithDecimal := by
  intro i o s m h1 l1 h2 l2 operand ready decimal hh1 hl1 hh2 hl2 first second
  have valid1 : validBcd (dstByte s) = true := first ▸ validBcd_of_digits hh1 hl1
  have valid2 : validBcd m = true := second ▸ validBcd_of_digits hh2 hl2
  have dec1 : decOfByte (dstByte s) = 10 * h1 + l1 := first ▸ decOfByte_of_digits hh1 hl1
  have dec2 : decOfByte m = 10 * h2 + l2 := second ▸ decOfByte_of_digits hh2 hl2
  have carryIn := Bool.toNat_le (s.flag .c)
  refine ⟨fun adc => ?_, fun sbc => ?_⟩
  · have effect := writesDst_adc adc operand ready
    rw [adcOutcome_of_decimal decimal, addDecimal_of_valid valid1 valid2, dec1, dec2] at effect
    refine ⟨_, Nat.mod_lt _ (by decide), writesDst_imp effect fun t ⟨⟨_, _, _, c⟩, marked, _⟩ =>
      ⟨?_, marked.trans decimal⟩⟩
    rw [c]
    exact decimal_sum_split (by omega)
  · have effect := writesDst_sbc sbc operand ready
    rw [sbcOutcome_of_decimal decimal, subDecimal_of_valid valid1 valid2, dec1, dec2] at effect
    refine ⟨_, by omega, writesDst_imp effect fun t ⟨⟨_, _, _, c⟩, marked, _⟩ => ⟨?_, marked.trans decimal⟩⟩
    rw [c]
    exact decimal_difference_split (by omega) (by omega) (s.flag .c)

/-- Settles O25: the shared effect says nothing of the bytes. -/
theorem arithDecimalRuns : Obligations.ArithDecimalRuns := by
  rintro i o s m operand ready decimal (adc | sbc)
  · exact ⟨_, writesDst_imp (writesDst_adc adc operand ready) fun t ⟨_, marked, noPlp⟩ =>
      ⟨marked.trans decimal, noPlp⟩⟩
  · exact ⟨_, writesDst_imp (writesDst_sbc sbc operand ready) fun t ⟨_, marked, noPlp⟩ =>
      ⟨marked.trans decimal, noPlp⟩⟩

/-! ### INC and DEC -/

/-- `u` is `t` but for the listed flags. -/
def flagsWritten (flags : List Flag) (t u : State) : Prop :=
  (∃ ps, u = putPs ps t) ∧ ∀ f, f ∉ flags → u.flag f = t.flag f

theorem flagsWritten_setNZ (t : State) (v : Byte) : flagsWritten [.n, .z] t (t.setNZ v) := by
  refine ⟨⟨_, rfl⟩, fun f out => ?_⟩
  simp only [List.mem_cons, List.not_mem_nil, or_false, not_or] at out
  obtain ⟨notN, notZ⟩ := out
  rw [setNZ_flag, if_neg notZ, if_neg notN]

theorem keeps_of_flagsWritten {regs : List Reg} {flags : List Flag} {bytes : List Addr} {s t u : State}
    (h : keeps regs [] bytes s t) (written : flagsWritten flags t u) : keeps regs flags bytes s u := by
  obtain ⟨⟨ps, rfl⟩, unwritten⟩ := written
  exact keeps_of_eq h (fun r => by cases r <;> rfl) unwritten rfl rfl rfl rfl rfl rfl

theorem stored_of_flagsWritten {flags : List Flag} {s t u : State} {a : Addr} {v : Byte} {bits : List Nat}
    (h : stored s t a v bits) (written : flagsWritten flags t u) : stored s u a v bits := by
  obtain ⟨⟨ps, rfl⟩, -⟩ := written
  exact h

theorem unchanged_of_flagsWritten {flags : List Flag} {t u : State} (written : flagsWritten flags t u) :
    u.a = t.a ∧ u.pc = t.pc ∧ (t.shadowsClear → u.shadowsClear) := by
  obtain ⟨⟨ps, rfl⟩, -⟩ := written
  exact ⟨rfl, rfl, id⟩

/-- A read-modify-write whose flag computation writes flags only (R71, R210): of A, or of the byte at the effective address. -/
theorem modifies_of_modifyOp {i : Instr} {g : Target} {s : State} {f : Byte → Byte} {fl : Byte → State → State}
    {flags : List Flag} {post : Byte → State → Prop} (runs : exec i s = modifyOp f fl g s)
    (length : instrLength i = targetLength g) (written : ∀ v t, flagsWritten flags t (fl v t))
    (holds : ∀ v t, post v (fl v t)) : modifies i g s f flags post := by
  cases g with
  | acc =>
    have kept : keeps [.a] [] [] s (putA (f s.a) (s.begin 1)) := keeps_putA (keeps_begin_of ..) (by simp) _
    obtain ⟨a, pc, clear⟩ := unchanged_of_flagsWritten (written s.a (putA (f s.a) (s.begin 1)))
    refine ⟨_, runs.trans (modifyOp_acc f fl s), ⟨a, holds _ _⟩, ?_, clear (begin_shadowsClear s 1),
      keeps_of_flagsWritten kept (written _ _)⟩
    rw [pc, length]
    rfl
  | mem m =>
    intro ea address mapped
    obtain ⟨-, pc, -⟩ := unchanged_of_flagsWritten (written (s.byteAt .data ea)
      ((s.begin (modeLength m)).written .whole ea (f (s.byteAt .data ea))))
    refine ⟨_, runs.trans (modifyOp_mem_eq_next.mpr ⟨ea, address, mapped, rfl⟩),
      stored_of_flagsWritten (stored_begin s _ .whole ea _) (written _ _), holds _ _, ?_,
      keeps_of_flagsWritten (keeps_written s _ .whole ea _) (written _ _)⟩
    rw [pc, length, written_pc]
    rfl

/-- INC and DEC: a read-modify-write with N and Z of its result. -/
theorem modifies_of_modifyNZ {i : Instr} {g : Target} {s : State} {f : Byte → Byte}
    (runs : exec i s = modifyNZ f g s) (length : instrLength i = targetLength g) :
    modifies i g s f [.n, .z] fun v => nzOf (f v) :=
  modifies_of_modifyOp runs length (fun v t => flagsWritten_setNZ t (f v)) fun v t => nzOf_setNZ t (f v)

theorem add_one_eq_ofNat (v : Byte) : v + 1 = BitVec.ofNat 8 (v.toNat + 1) := rfl

/-- One less modulo 256 is 255 more. -/
theorem sub_one_eq_ofNat (v : Byte) : v - 1 = BitVec.ofNat 8 (v.toNat + 255) := by bv_omega

/-- Settles O26: both are read-modify-writes, and one less modulo 256 is 255 more. -/
theorem incDec : Obligations.IncDec := by
  intro i g s
  refine ⟨fun inc => modifies_of_modifyNZ ?_ (instrLength_of_shape inc),
    fun dec => modifies_of_modifyNZ ?_ (instrLength_of_shape dec)⟩
  · simpa only [add_one_eq_ofNat] using exec_inc inc s
  · simpa only [sub_one_eq_ofNat] using exec_dec dec s

/-! ### INX, INY, DEX and DEY -/

/-- A one-byte step of a register by `k` modulo 256, with N and Z of the result (R188 to R191). -/
theorem writesRegs_of_step {i : Instr} {s : State} {r : Reg} {v : Byte} {k : Nat}
    (runs : exec i s = .next ((putReg r v (s.begin (instrLength i))).setNZ v))
    (value : v = BitVec.ofNat 8 ((s.reg r).toNat + k)) :
    writesRegs i s [r] [.n, .z] fun t => (t.reg r).toNat = ((s.reg r).toNat + k) % 256 ∧ nzOf (t.reg r) t := by
  obtain ⟨t, runs, ⟨took, nz⟩, rest⟩ := writesRegs_of_putReg_setNZ runs
  refine ⟨t, runs, ⟨?_, took ▸ nz⟩, rest⟩
  rw [took, value, BitVec.toNat_ofNat]

/-- Settles O27: a step down is one of 255 modulo 256. -/
theorem indexSteps : Obligations.IndexSteps := by
  intro s
  exact ⟨⟨rfl, cycles_of_implied (m := .inx) rfl s, writesRegs_of_step (r := .x) rfl (add_one_eq_ofNat s.x)⟩,
    ⟨rfl, cycles_of_implied (m := .iny) rfl s, writesRegs_of_step (r := .y) rfl (add_one_eq_ofNat s.y)⟩,
    ⟨rfl, cycles_of_implied (m := .dex) rfl s, writesRegs_of_step (r := .x) rfl (sub_one_eq_ofNat s.x)⟩,
    ⟨rfl, cycles_of_implied (m := .dey) rfl s, writesRegs_of_step (r := .y) rfl (sub_one_eq_ofNat s.y)⟩⟩

/-! ### MUL and DIV -/

/-- What MUL and DIV end with: one byte pushed at the start of the instruction, another into A, no flag (R193, R194). -/
theorem push_putA_begin {s : State} (free : s.mapped (s.slot 0) = true) (n : Nat) (pushed a : Byte) :
    ∃ t, (andThen (push pushed (s.begin n)) fun u => .next (putA a u)) = .next t ∧ t.a = a ∧
      stored s t (s.slot 0) pushed (requestBitsAt s.product (s.slot 0)) ∧ t.sp = s.sp - 1 ∧ t.pc = s.nextPc n ∧
      keeps [.a, .s] [] [s.slot 0] s t := by
  obtain ⟨u, runs, took, sp, pc, kept⟩ := push_begin free n pushed
  exact ⟨putA a u, by rw [runs, andThen_next], rfl, took, sp, pc,
    keeps_putA (keeps_mono kept (by simp) (by simp) (by simp)) (by simp) a⟩

theorem hiByte_ofNat {n : Nat} (h : n < 65536) : hiByte (BitVec.ofNat 16 n) = BitVec.ofNat 8 (n / 256) := by
  apply BitVec.eq_of_toNat_eq
  rw [hiByte_toNat, BitVec.toNat_ofNat, BitVec.toNat_ofNat]
  omega

theorem loByte_ofNat (n : Nat) : loByte (BitVec.ofNat 16 n) = BitVec.ofNat 8 (n % 256) := by
  apply BitVec.eq_of_toNat_eq
  rw [loByte_toNat, BitVec.toNat_ofNat, BitVec.toNat_ofNat]
  omega

/-- The product of two bytes fits 16 bits. -/
theorem byte_mul_byte_lt (a b : Byte) : a.toNat * b.toNat < 65536 := Nat.mul_lt_mul'' a.isLt b.isLt

theorem exec_mulZpX {s : State} {zz : Byte} (present : s.product.hasMulDiv = true) :
    exec (.mulZpX zz) s = multiplyOp (zz + s.x) s := if_pos present

theorem exec_divZpX {s : State} {zz : Byte} (present : s.product.hasMulDiv = true) :
    exec (.divZpX zz) s = divideOp (zz + s.x) s := if_pos present

theorem multiplyOp_of_mapped {s : State} {p : Byte} (mapped : s.mapped (zext16 p) = true) :
    multiplyOp p s =
      andThen (push (hiByte (BitVec.ofNat 16 (s.a.toNat * (s.byteAt .data (zext16 p)).toNat))) (s.begin 2)) fun t =>
        .next (putA (loByte (BitVec.ofNat 16 (s.a.toNat * (s.byteAt .data (zext16 p)).toNat))) t) := by
  rw [multiplyOp, readByte_of_mapped mapped, andThen_next]

/-- Settles O28: the high byte of the product is pushed before its low byte goes to A. -/
theorem mulMultiplies : Obligations.MulMultiplies := by
  intro s zz present mapped free
  rw [exec_mulZpX present, multiplyOp_of_mapped mapped, hiByte_ofNat (byte_mul_byte_lt ..), loByte_ofNat]
  exact push_putA_begin free 2 _ _

/-- Quotient and pushed byte when the divisor is not 0 and the quotient fits a byte (R194). -/
theorem divideOutcome_of_fits {w : Addr} {d : Byte} (nonzero : d ≠ 0) (fits : w.toNat / d.toNat ≤ 255) (draw : Nat) :
    (divideOutcome draw w d).1.toNat = w.toNat / d.toNat ∧
      (divideOutcome draw w d).2.toNat = 255 - w.toNat % d.toNat := by
  have remainder : w.toNat % d.toNat < 256 :=
    (Nat.mod_lt _ (Nat.pos_of_ne_zero fun zero => nonzero (BitVec.eq_of_toNat_eq zero))).trans d.isLt
  rw [divideOutcome, if_neg (not_or.mpr ⟨nonzero, Nat.not_lt.mpr fits⟩)]
  constructor
  · rw [BitVec.toNat_ofNat]
    exact Nat.mod_eq_of_lt (Nat.lt_succ_of_le fits)
  · rw [BitVec.toNat_not, BitVec.toNat_ofNat]
    omega

/-- Settles O29: the dividend is the zero-page word, and DIV pushes in every case. -/
theorem divDivides : Obligations.DivDivides := by
  intro s zz hi present next lowMapped highMapped free
  have wordLt : 256 * (s.byteAt .pointerHi hi).toNat + (s.byteAt .pointerLo (zext16 (zz + s.x))).toNat < 65536 := by
    have := (s.byteAt .pointerHi hi).isLt
    have := (s.byteAt .pointerLo (zext16 (zz + s.x))).isLt
    omega
  rw [exec_divZpX present, divideOp, readZpWord_of_mapped next lowMapped highMapped, andThen_next]
  obtain ⟨t, runs, quotient, took, sp, pc, kept⟩ := push_putA_begin free 2 (divideOutcome s.draws _ s.a).2
    (divideOutcome s.draws _ s.a).1
  refine ⟨t, _, runs, took, fun nonzero fits => ?_, sp, pc, kept⟩
  have outcome := divideOutcome_of_fits (w := BitVec.ofNat 16 _) nonzero
    (by rwa [BitVec.toNat_ofNat, Nat.mod_eq_of_lt wordLt]) s.draws
  rwa [BitVec.toNat_ofNat, Nat.mod_eq_of_lt wordLt, ← quotient] at outcome

end Sys2Proof.Machine

/-! Logic, test, compare, shift and rotate (42_logic_compare_shift.md). -/

namespace Sys2Proof.Machine

/-! ### Writing flags only -/

theorem flagsWritten_refl (flags : List Flag) (t : State) : flagsWritten flags t t := ⟨⟨_, rfl⟩, fun _ _ => rfl⟩

theorem flagsWritten_setFlag {flags : List Flag} {t u : State} {f : Flag} (h : flagsWritten flags t u)
    (mem : f ∈ flags) (v : Bool) : flagsWritten flags t (u.setFlag f v) := by
  obtain ⟨⟨ps, rfl⟩, unwritten⟩ := h
  refine ⟨⟨_, rfl⟩, fun g out => ?_⟩
  have ne : g ≠ f := fun eq => out (eq ▸ mem)
  rw [setFlag_flag, if_neg ne, unwritten g out]

theorem flagsWritten_setShift (t : State) (o : Shifted) : flagsWritten [.n, .z, .c] t (t.setShift o) :=
  flagsWritten_setFlag (flagsWritten_setFlag (flagsWritten_setFlag (flagsWritten_refl _ t) (by simp) _) (by simp) _)
    (by simp) _

theorem flagsWritten_setBitTest (t : State) (a m : Byte) : flagsWritten [.n, .v, .z] t (t.setBitTest a m) :=
  flagsWritten_setFlag (flagsWritten_setFlag (flagsWritten_setFlag (flagsWritten_refl _ t) (by simp) _) (by simp) _)
    (by simp) _

/-- The flags of a shift: N and Z of its result, C its carry (R211 to R214). -/
theorem setShift_nzOf_carry (t : State) (o : Shifted) : nzOf o.r (t.setShift o) ∧ (t.setShift o).flag .c = o.c := by
  obtain ⟨n, -⟩ := nzOf_setNZ t o.r
  exact ⟨⟨by simpa using n, by simp⟩, by simp⟩

/-- A comparison writes the flags of a shift: the difference is its result, and its carry says that nothing was
borrowed (R207). -/
theorem setCompare_eq_setShift (t : State) (a m : Byte) :
    t.setCompare a m = t.setShift ⟨a - m, decide (m.toNat ≤ a.toNat)⟩ := rfl

/-- An instruction whose one effect is to write flags writes nothing else. -/
theorem writesRegs_of_flagsWritten {i : Instr} {s t : State} {flags : List Flag} {post : State → Prop}
    (runs : exec i s = .next t) (written : flagsWritten flags (s.begin (instrLength i)) t) (holds : post t) :
    writesRegs i s [] flags post := by
  obtain ⟨-, pc, clear⟩ := unchanged_of_flagsWritten written
  exact ⟨t, runs, holds, pc, clear (begin_shadowsClear s _), keeps_of_flagsWritten (keeps_begin_of ..) written⟩

/-! ### AND, ORA and EOR -/

/-- AND, ORA and EOR in any mode: the destination takes the result, with N and Z of it (R185). -/
theorem writesDst_of_logicOp {i : Instr} {f : Byte → Byte → Byte} {o : Operand} {s : State} {m : Byte}
    (runs : exec i s = logicOp f o s) (length : instrLength i = operandLength o) (operand : operandByte o s = .next m)
    (ready : dstReady s = true) : writesDst i s (f (dstByte s) m) [.n, .z] (nzOf (f (dstByte s) m)) := by
  obtain ⟨u, written, took, pc, -, -, kept⟩ := writeDst_of_ready s (operandLength o) (f (dstByte s) m) ready
  refine ⟨u.setNZ (f (dstByte s) m), ?_, dstTook_of_eq took rfl rfl rfl rfl, nzOf_setNZ .., ?_,
    keeps_of_flagsWritten kept (flagsWritten_setNZ ..)⟩
  · rw [runs]
    exact logicOp_eq_next.mpr ⟨m, dstByte s, u, operand, readDst_of_ready ready, written, rfl⟩
  · rw [length]
    exact pc

/-- Settles O31: the operations on bytes act on each bit. -/
theorem logicOps : Obligations.LogicOps := fun _ _ s _ operand ready =>
  ⟨fun and => ⟨_, fun _ _ => BitVec.getLsbD_and,
      writesDst_of_logicOp (exec_and and s) (instrLength_of_shape and) operand ready⟩,
    fun ora => ⟨_, fun _ _ => BitVec.getLsbD_or,
      writesDst_of_logicOp (exec_ora ora s) (instrLength_of_shape ora) operand ready⟩,
    fun eor => ⟨_, fun _ _ => BitVec.getLsbD_xor,
      writesDst_of_logicOp (exec_eor eor s) (instrLength_of_shape eor) operand ready⟩⟩

/-! ### CMP, CPX and CPY -/

theorem sub_eq_ofInt (a m : Byte) : a - m = BitVec.ofInt 8 ((a.toNat : Int) - m.toNat) := by bv_omega

/-- What ends by writing the flags of a comparison stores nothing (R207). -/
theorem writesRegs_of_setCompare {i : Instr} {s : State} {a m : Byte}
    (runs : exec i s = .next ((s.begin (instrLength i)).setCompare a m)) :
    writesRegs i s [] [.n, .z, .c] fun t =>
      nzOf (BitVec.ofInt 8 ((a.toNat : Int) - m.toNat)) t ∧ t.flag .c = decide (m.toNat ≤ a.toNat) := by
  rw [setCompare_eq_setShift] at runs
  rw [← sub_eq_ofInt]
  exact writesRegs_of_flagsWritten runs (flagsWritten_setShift ..) (setShift_nzOf_carry ..)

theorem writesRegs_of_compareOp {i : Instr} {s : State} {o : Operand} {a m : Byte}
    (runs : exec i s = compareOp a o s) (length : instrLength i = operandLength o)
    (operand : operandByte o s = .next m) :
    writesRegs i s [] [.n, .z, .c] fun t =>
      nzOf (BitVec.ofInt 8 ((a.toNat : Int) - m.toNat)) t ∧ t.flag .c = decide (m.toNat ≤ a.toNat) := by
  refine writesRegs_of_setCompare ?_
  rw [runs, length]
  exact compareOp_eq_next.mpr ⟨m, operand, rfl⟩

/-- Settles O32: CMP reads its destination, and then compares as CPX and CPY do. -/
theorem compares : Obligations.Compares := by
  intro i o s m operand
  refine ⟨fun cmp ready => writesRegs_of_setCompare ?_,
    fun cpx => writesRegs_of_compareOp (exec_cpx cpx s) (instrLength_of_shape cpx) operand,
    fun cpy => writesRegs_of_compareOp (exec_cpy cpy s) (instrLength_of_shape cpy) operand⟩
  rw [exec_cmp cmp, instrLength_of_shape cmp]
  exact compareDstOp_eq_next.mpr ⟨m, dstByte s, operand, readDst_of_ready ready, rfl⟩

/-! ### BIT and TST -/

/-- No bit is set in both bytes exactly when their AND is 0. -/
theorem and_eq_zero_iff_bits (a m : Byte) :
    a &&& m = 0 ↔ ∀ j, j < 8 → ¬(a.getLsbD j = true ∧ m.getLsbD j = true) := by
  refine ⟨fun zero j _ => ?_, fun none => BitVec.eq_of_getLsbD_eq fun j hj => ?_⟩
  · rw [← Bool.and_eq_true, ← BitVec.getLsbD_and, zero]
    simp
  · have := none j hj
    rw [← Bool.and_eq_true, Bool.not_eq_true] at this
    rw [BitVec.getLsbD_and, this]
    simp

/-- Settles O33: BIT writes N, V and Z, and TST is a load without a register. -/
theorem bitAndTst : Obligations.BitAndTst := by
  intro i o s m operand
  refine ⟨fun bit => ?_, fun tst => ?_⟩
  · obtain ⟨mode, rfl, runs⟩ := exec_bit bit s
    have ran : exec i s = .next ((s.begin (instrLength i)).setBitTest s.a m) := by
      rw [runs, instrLength_of_shape bit]
      exact bitTestOp_eq_next.mpr ⟨m, operand, rfl⟩
    refine writesRegs_of_flagsWritten ran (flagsWritten_setBitTest ..) ⟨?_, ?_, ?_⟩
    · simp
    · simp
    · rw [setBitTest_flag, if_pos rfl, decide_eq_true_iff, and_eq_zero_iff_bits]
  · have ran : exec i s = .next ((s.begin (instrLength i)).setNZ m) := by
      rw [exec_tst tst, instrLength_of_shape tst]
      exact loadOp_eq_next.mpr ⟨m, operand, rfl⟩
    exact writesRegs_of_flagsWritten ran (flagsWritten_setNZ ..) (nzOf_setNZ ..)

/-! ### The results as numbers -/

theorem not_eq_ofNat (v : Byte) : ~~~v = BitVec.ofNat 8 (255 - v.toNat) := by
  apply BitVec.eq_of_toNat_eq
  rw [BitVec.toNat_not, BitVec.toNat_ofNat]
  omega

theorem shiftLeft_one_eq_ofNat (v : Byte) : v <<< 1 = BitVec.ofNat 8 (2 * v.toNat) := by
  apply BitVec.eq_of_toNat_eq
  rw [BitVec.toNat_shiftLeft, BitVec.toNat_ofNat, Nat.shiftLeft_eq]
  omega

theorem shiftRight_toNat (v : Byte) (k : Nat) : (v >>> k).toNat = v.toNat / 2 ^ k := by
  rw [BitVec.toNat_ushiftRight, Nat.shiftRight_eq_div_pow]

theorem shiftRight_one_eq_ofNat (v : Byte) : v >>> 1 = BitVec.ofNat 8 (v.toNat / 2) := by
  apply BitVec.eq_of_toNat_eq
  rw [shiftRight_toNat, BitVec.toNat_ofNat]
  omega

/-- A byte shifted left, and one below the place it is shifted to: the two do not overlap. -/
theorem shiftLeft_or_eq_ofNat (v low : Byte) {k : Nat} (below : low.toNat < 2 ^ k) :
    v <<< k ||| low = BitVec.ofNat 8 (2 ^ k * v.toNat + low.toNat) := by
  apply BitVec.eq_of_toNat_eq
  rw [BitVec.toNat_or, BitVec.toNat_shiftLeft, BitVec.toNat_ofNat, Nat.two_pow_add_eq_or_of_lt below,
    Nat.or_mod_two_pow, Nat.mod_eq_of_lt low.isLt, Nat.shiftLeft_eq, Nat.mul_comm]

/-- ROL (R213): the carry comes in below the byte. -/
theorem rotateLeft_r (v : Byte) (c : Bool) : (rotateLeft v c).r = BitVec.ofNat 8 (2 * v.toNat + c.toNat) := by
  have carry : (if c then 0x01 else 0x00 : Byte).toNat = c.toNat := by cases c <;> rfl
  have below : (if c then 0x01 else 0x00 : Byte).toNat < 2 ^ 1 := carry ▸ c.toNat_lt
  exact (shiftLeft_or_eq_ofNat v _ below).trans (by rw [carry]; rfl)

/-- ROR (R214): the carry comes in above half the byte. -/
theorem rotateRight_r (v : Byte) (c : Bool) :
    (rotateRight v c).r = BitVec.ofNat 8 (v.toNat / 2 + 128 * c.toNat) := by
  have carry : (if c then 0x80 else 0x00 : Byte) = BitVec.ofNat 8 c.toNat <<< 7 := by cases c <;> rfl
  have half : (v >>> 1).toNat = v.toNat / 2 := shiftRight_toNat v 1
  have below : (v >>> 1).toNat < 2 ^ 7 := by omega
  have bit : (BitVec.ofNat 8 c.toNat).toNat = c.toNat := by cases c <;> rfl
  rw [rotateRight, carry, BitVec.or_comm, shiftLeft_or_eq_ofNat _ _ below, half, bit, Nat.add_comm]
  rfl

/-- RRF (R215): the low nibble becomes the high one. -/
theorem swapNibbles_eq_ofNat (v : Byte) :
    swapNibbles v = BitVec.ofNat 8 (16 * (v.toNat % 16) + v.toNat / 16) := by
  have high : (v >>> 4).toNat = v.toNat / 16 := shiftRight_toNat v 4
  have below : (v >>> 4).toNat < 2 ^ 4 := by omega
  rw [swapNibbles, shiftLeft_or_eq_ofNat v _ below, high]
  apply BitVec.eq_of_toNat_eq
  rw [BitVec.toNat_ofNat, BitVec.toNat_ofNat]
  omega

/-! ### COM and RRF -/

/-- Settles O34: both are read-modify-writes, COM with N and Z, RRF without a flag. -/
theorem comAndRrf : Obligations.ComAndRrf := by
  intro i g s
  refine ⟨fun com => modifies_of_modifyNZ ?_ (instrLength_of_shape com), fun rrf => modifies_of_modifyOp ?_
    (instrLength_of_shape rrf) (fun _ t => flagsWritten_refl [] t) fun _ _ => trivial⟩
  · simpa only [not_eq_ofNat] using exec_com com s
  · rw [exec_rrf rrf, funext swapNibbles_eq_ofNat]

/-! ### The shifts and the rotates -/

/-- A shift or rotate of A or of a byte of memory: N and Z of the result, C the bit shifted out (R210). -/
theorem modifies_of_shiftOp {i : Instr} {g : Target} {s : State} {f : Byte → Shifted} {r : Byte → Byte}
    {post : Byte → State → Prop} (runs : exec i s = shiftOp f g s) (length : instrLength i = targetLength g)
    (value : ∀ v, (f v).r = r v) (holds : ∀ v t, nzOf (r v) t ∧ t.flag .c = (f v).c → post v t) :
    modifies i g s r [.n, .z, .c] post := by
  rw [← funext value]
  exact modifies_of_modifyOp runs length (fun v t => flagsWritten_setShift t (f v)) fun v t =>
    holds v _ (value v ▸ setShift_nzOf_carry t (f v))

/-- Settles O35: half of a byte has no bit 7. -/
theorem shifts : Obligations.Shifts := by
  intro i g s
  refine ⟨fun asl => modifies_of_shiftOp (exec_asl asl s) (instrLength_of_shape asl) shiftLeft_one_eq_ofNat
      fun _ _ => id,
    fun lsr => modifies_of_shiftOp (exec_lsr lsr s) (instrLength_of_shape lsr) shiftRight_one_eq_ofNat
      fun v t ⟨⟨n, z⟩, c⟩ => ⟨⟨n, z⟩, n.trans ?_, c⟩⟩
  rw [← shiftRight_one_eq_ofNat, BitVec.getLsbD_ushiftRight]
  exact BitVec.getLsbD_of_ge v _ (by decide)

/-- Settles O36: the carry that comes in is that of the state before. -/
theorem rotates : Obligations.Rotates := fun _ _ s =>
  ⟨fun rol => modifies_of_shiftOp (exec_rol rol s) (instrLength_of_shape rol) (rotateLeft_r · (s.flag .c))
      fun _ _ => id,
    fun ror => modifies_of_shiftOp (exec_ror ror s) (instrLength_of_shape ror) (rotateRight_r · (s.flag .c))
      fun _ _ => id⟩

end Sys2Proof.Machine

/-! Bit manipulation and flag setting (43_bit_and_flag.md). -/

namespace Sys2Proof.Machine

/-! ### One bit of a byte -/

/-- CLB's byte, bit by bit: the one bit 0, the others those read (R231). -/
theorem clearBit_bits (v : Byte) (b j : Nat) : (clearBit v b).getLsbD j = (!decide (j = b) && v.getLsbD j) := by
  rw [getLsbD_clearBit, Bool.and_comm]

/-- SEB's byte, bit by bit: the one bit 1, the others those read (R232). -/
theorem setBit_bits (v : Byte) (b : Nat) {j : Nat} (inByte : j < 8) :
    (setBit v b).getLsbD j = (decide (j = b) || v.getLsbD j) := by
  rw [getLsbD_setBit, decide_eq_true inByte, Bool.true_and, Bool.or_comm]

/-! ### CLB and SEB -/

theorem writesRegs_imp {i : Instr} {s : State} {regs : List Reg} {flags : List Flag} {post post' : State → Prop}
    (h : writesRegs i s regs flags post) (imp : ∀ t, post t → post' t) : writesRegs i s regs flags post' := by
  obtain ⟨t, runs, holds, rest⟩ := h
  exact ⟨t, runs, imp t holds, rest⟩

/-- An instruction that changes bit `b` of a zero-page byte writes back the whole byte, and no flag, and the shadow is of
bit `b` only (R231, R232, R352). -/
theorem storesBit_of_modifyBit {i : Instr} {f : Byte → Nat → Byte} {b : Nat} {zz : Byte} {s : State}
    (runs : exec i s = modifyBit f b zz s) (mapped : s.mapped (zext16 zz) = true) :
    ∃ t, exec i s = .next t ∧
      stored s t (zext16 zz) (f (s.byteAt .data (zext16 zz)) b)
        ((requestBitsAt s.product (zext16 zz)).filter fun j => j = b) ∧
      t.pc = s.nextPc 2 ∧ keeps [] [] [zext16 zz] s t :=
  ⟨_, runs.trans (modifyBit_eq_next.mpr ⟨mapped, rfl⟩), stored_begin s 2 (.bit b) _ _, written_pc .., keeps_written ..⟩

/-- Settles O37: what is left to say is the byte, bit by bit. -/
theorem bitInstructions : Obligations.BitInstructions := by
  intro s b zz _
  refine ⟨?clbAcc, ?sebAcc, fun mapped => ?clbZp, fun mapped => ?sebZp⟩
  case clbAcc =>
    exact writesRegs_imp (writesRegs_of_putReg (r := .a) rfl) fun t (took : t.a = clearBit s.a b) j _ =>
      took ▸ clearBit_bits s.a b j
  case sebAcc =>
    exact writesRegs_imp (writesRegs_of_putReg (r := .a) rfl) fun t (took : t.a = setBit s.a b) j inByte =>
      took ▸ setBit_bits s.a b inByte
  case clbZp =>
    obtain ⟨t, runs, rest⟩ := storesBit_of_modifyBit (i := .clbZp b zz) (f := clearBit) rfl mapped
    exact ⟨t, _, runs, fun j _ => clearBit_bits _ b j, rest⟩
  case sebZp =>
    obtain ⟨t, runs, rest⟩ := storesBit_of_modifyBit (i := .sebZp b zz) (f := setBit) rfl mapped
    exact ⟨t, _, runs, fun j inByte => setBit_bits _ b inByte, rest⟩

/-! ### The flag instructions -/

/-- An instruction whose one effect is to write one flag writes nothing else (R235). -/
theorem writesRegs_of_setFlag {i : Instr} {s : State} {f : Flag} {v : Bool}
    (runs : exec i s = .next ((s.begin (instrLength i)).setFlag f v)) :
    writesRegs i s [] [f] fun t => t.flag f = v :=
  writesRegs_of_flagsWritten runs (flagsWritten_setFlag (flagsWritten_refl ..) (by simp) v) (by simp)

/-- Settles O38: each of the nine takes two cycles and writes its flag. -/
theorem flagInstructions : Obligations.FlagInstructions := by
  intro s
  exact ⟨⟨rfl, cycles_of_implied (m := .clc) rfl s, writesRegs_of_setFlag rfl⟩,
    ⟨rfl, cycles_of_implied (m := .sec) rfl s, writesRegs_of_setFlag rfl⟩,
    ⟨rfl, cycles_of_implied (m := .cld) rfl s, writesRegs_of_setFlag rfl⟩,
    ⟨rfl, cycles_of_implied (m := .sed) rfl s, writesRegs_of_setFlag rfl⟩,
    ⟨rfl, cycles_of_implied (m := .cli) rfl s, writesRegs_of_setFlag rfl⟩,
    ⟨rfl, cycles_of_implied (m := .sei) rfl s, writesRegs_of_setFlag rfl⟩,
    ⟨rfl, cycles_of_implied (m := .clt) rfl s, writesRegs_of_setFlag rfl⟩,
    ⟨rfl, cycles_of_implied (m := .set) rfl s, writesRegs_of_setFlag rfl⟩,
    ⟨rfl, cycles_of_implied (m := .clv) rfl s, writesRegs_of_setFlag rfl⟩⟩

end Sys2Proof.Machine

/-! Control transfer (44_control_transfer.md): the jumps, the branches, the calls and the returns. -/

namespace Sys2Proof.Machine

/-! ### Reading a word and going to it -/

theorem keeps_goto {regs : List Reg} {flags : List Flag} {bytes : List Addr} {s t : State}
    (h : keeps regs flags bytes s t) (target : Addr) : keeps regs flags bytes s (t.goto target) := by
  obtain ⟨keptRegs, rest⟩ := h
  exact ⟨fun r out => by cases r <;> exact keptRegs _ out, rest⟩

theorem readWord_of_mapped {s : State} {lo hi : Addr} (lowMapped : s.mapped lo = true) (highMapped : s.mapped hi = true)
    (kLo kHi : Access) : readWord kLo kHi lo hi s =
      .next (BitVec.ofNat 16 (256 * (s.byteAt kHi hi).toNat + (s.byteAt kLo lo).toNat)) :=
  readWord_eq_next.mpr ⟨lowMapped, highMapped, (cat16_eq_ofNat ..).symm⟩

/-! ### JMP -/

theorem loByte_eq_ff_iff (w : Addr) : loByte w = 0xFF ↔ w.toNat % 256 = 255 := by
  rw [← loByte_toNat]
  exact ⟨fun eq => by rw [eq]; rfl, fun eq => BitVec.eq_of_toNat_eq eq⟩

theorem exec_jmpInd_of_pageEnd {hhll : Addr} (pageEnd : hhll.toNat % 256 = 255) (s : State) :
    exec (.jmpInd hhll) s = .refused (.jmpIndirectPageEnd hhll) := if_pos ((loByte_eq_ff_iff hhll).mpr pageEnd)

theorem exec_jmpInd_of_inPage {hhll : Addr} (inPage : hhll.toNat % 256 ≠ 255) (s : State) :
    exec (.jmpInd hhll) s =
      andThen (readWord .pointerLo .pointerHi hhll (hhll + 1) s) fun p => .next ((s.begin 3).goto p) :=
  if_neg (mt (loByte_eq_ff_iff hhll).mp inPage)

theorem exec_jmpZpInd (zz : Byte) (s : State) :
    exec (.jmpZpInd zz) s = andThen (readZpWord zz s) fun p => .next ((s.begin 2).goto p) := rfl

/-- Settles O40. -/
theorem jmpIndirectPageEnd : Obligations.JmpIndirectPageEnd := fun s _ pageEnd => exec_jmpInd_of_pageEnd pageEnd s

/-- A jump does nothing but go to its target. -/
theorem jumps_of_goto {i : Instr} {s : State} {n : Nat} {target : Addr}
    (runs : exec i s = .next ((s.begin n).goto target)) :
    ∃ t, exec i s = .next t ∧ t.pc = target ∧ t.shadowsClear ∧ keeps [] [] [] s t :=
  ⟨_, runs, rfl, begin_shadowsClear s n, keeps_goto (keeps_begin s n) target⟩

/-- Settles O39: the three forms differ in where the target is read. -/
theorem jumps : Obligations.Jumps := by
  intro s
  refine ⟨fun hhll => jumps_of_goto (n := 3) rfl, fun hhll inPage low high => jumps_of_goto (n := 3) ?_,
    fun zz hi next low high => jumps_of_goto (n := 2) ?_⟩
  · rw [exec_jmpInd_of_inPage inPage, readWord_of_mapped low high, andThen_next]
  · rw [exec_jmpZpInd, readZpWord_of_mapped next low high, andThen_next]

/-! ### The branches -/

theorem nextPc_eq_ofInt (s : State) (n : Nat) : s.nextPc n = BitVec.ofInt 16 ((s.pc.toNat : Int) + (n : Int)) := by
  rw [BitVec.ofInt_add, BitVec.ofInt_natCast, BitVec.ofInt_natCast, BitVec.ofNat_toNat, BitVec.setWidth_eq]
  rfl

/-- The target of a branch: the displacement is signed, and the sum wraps at 65536 (R254). -/
theorem nextPc_add_sext16 (s : State) (n : Nat) (rr : Byte) :
    s.nextPc n + sext16 rr = BitVec.ofInt 16 ((s.pc.toNat : Int) + (n : Int) + rr.toInt) := by
  rw [BitVec.ofInt_add, ← nextPc_eq_ofInt]
  rfl

/-- An instruction that is a branch of its own length completes as one. -/
theorem branches_of_branch {i : Instr} {s : State} {rr : Byte} {taken : Bool}
    (runs : exec i s = branch taken (instrLength i) rr s) : branches i s rr taken := by
  cases taken with
  | true =>
    exact ⟨_, runs, nextPc_add_sext16 .., begin_shadowsClear s (instrLength i), keeps_goto (keeps_begin s _) _⟩
  | false =>
    refine ⟨_, runs, ?_, begin_shadowsClear s _, keeps_begin s _⟩
    simpa using nextPc_eq_ofInt s (instrLength i)

/-- A branch takes two cycles, BRA four, and two more when a condition takes it (R363). -/
theorem cycles_of_rel {i : Instr} {m : Mnemonic} {rr : Byte} (h : shape i = (m, .rel rr)) (s : State) :
    cycles i s = (if m = .bra then 4 else 2) + if branchTaken i s then 2 else 0 := by
  have unlengthened : tCycles m = 0 := by cases i <;> cases h <;> rfl
  simp [cycles, mnemonic, h, unlengthened, baseCycles]

/-- A branch with a condition completes as a branch that the condition takes. -/
theorem branches_when {i : Instr} {m : Mnemonic} {s : State} {rr : Byte} {cond : Bool} (h : shape i = (m, .rel rr))
    (conditional : m ≠ .bra) (taken : branchTaken i s = cond) (runs : exec i s = branch cond 2 rr s) :
    cycles i s = (if cond then 4 else 2) ∧ branches i s rr cond := by
  refine ⟨?_, branches_of_branch (by rw [runs, instrLength_of_shape h]; rfl)⟩
  rw [cycles_of_rel h, if_neg conditional, taken]
  cases cond <;> rfl

/-- The same of a branch taken when its flag is 0. -/
theorem branches_unless {i : Instr} {m : Mnemonic} {s : State} {rr : Byte} {flag : Bool} (h : shape i = (m, .rel rr))
    (conditional : m ≠ .bra) (taken : branchTaken i s = !flag) (runs : exec i s = branch (!flag) 2 rr s) :
    cycles i s = (if flag then 2 else 4) ∧ branches i s rr (!flag) := by
  obtain ⟨count, completes⟩ := branches_when h conditional taken runs
  exact ⟨count.trans (by cases flag <;> rfl), completes⟩

/-- Settles O41: each of the eight flag branches asks one flag, in one sense. -/
theorem relativeBranches : Obligations.RelativeBranches := by
  intro s rr
  exact ⟨⟨rfl, cycles_of_rel (m := .bra) rfl s, branches_of_branch rfl⟩,
    ⟨rfl, branches_unless (m := .bcc) rfl (by decide) rfl rfl⟩,
    ⟨rfl, branches_when (m := .bcs) rfl (by decide) rfl rfl⟩,
    ⟨rfl, branches_when (m := .beq) rfl (by decide) rfl rfl⟩,
    ⟨rfl, branches_unless (m := .bne) rfl (by decide) rfl rfl⟩,
    ⟨rfl, branches_when (m := .bmi) rfl (by decide) rfl rfl⟩,
    ⟨rfl, branches_unless (m := .bpl) rfl (by decide) rfl rfl⟩,
    ⟨rfl, branches_unless (m := .bvc) rfl (by decide) rfl rfl⟩,
    ⟨rfl, branches_when (m := .bvs) rfl (by decide) rfl rfl⟩⟩

/-- A branch on a zero-page bit reads the byte once, and completes as a branch of its three bytes (R120). -/
theorem branches_of_branchOnZpBit {i : Instr} {want : Bool} {b : Nat} {zz rr : Byte} {s : State}
    (runs : exec i s = branchOnZpBit want b zz rr s) (length : instrLength i = 3)
    (mapped : s.mapped (zext16 zz) = true) :
    branches i s rr ((s.byteAt .data (zext16 zz)).getLsbD b == want) := by
  refine branches_of_branch ?_
  rw [runs, length]
  exact branchOnZpBit_eq_next.mpr ⟨mapped, rfl⟩

/-- Settles O42. -/
theorem bitBranches : Obligations.BitBranches := by
  intro s b zz rr _
  refine ⟨branches_of_branch rfl, branches_of_branch rfl, fun mapped => ⟨?bbc, ?bbs⟩⟩
  case bbc =>
    rw [← beq_false]
    exact branches_of_branchOnZpBit rfl rfl mapped
  case bbs =>
    rw [← beq_true ((s.byteAt .data (zext16 zz)).getLsbD b)]
    exact branches_of_branchOnZpBit rfl rfl mapped

/-! ### What the product alone decides -/

theorem kind_of_product {s t : State} (product : t.product = s.product) (a : Addr) : t.kind a = s.kind a := by
  rw [State.kind, product, State.kind]

theorem mapped_of_product {s t : State} (product : t.product = s.product) (a : Addr) : t.mapped a = s.mapped a := by
  rw [State.mapped, kind_of_product product, State.mapped]

theorem zpNext_of_product {s t : State} (product : t.product = s.product) (p : Byte) : zpNext p t = zpNext p s := by
  rw [zpNext, product, zpNext]

theorem stackAddr_of_product {s t : State} (product : t.product = s.product) (p : Byte) :
    t.stackAddr p = s.stackAddr p := by rw [State.stackAddr, product, State.stackAddr]

/-! ### Slots of the stack -/

theorem stackAddr_inj {s : State} {p q : Byte} : s.stackAddr p = s.stackAddr q ↔ p = q :=
  ⟨fun eq => (cat16_injective eq).2, fun eq => eq ▸ rfl⟩

theorem slot_zero_ne_slot_one (s : State) : s.slot 0 ≠ s.slot 1 := fun eq => by
  have := stackAddr_inj.mp eq
  bv_omega

/-- A push moves the slots by one. -/
theorem slot_of_push {s t : State} (product : t.product = s.product) (sp : t.sp = s.sp - 1) (k : Nat) :
    t.slot k = s.slot (k + 1) := by
  rw [State.slot, stackAddr_of_product product, sp, State.slot, BitVec.sub_sub, Nat.add_comm, BitVec.ofNat_add]
  rfl

/-- A pull moves the bytes above the free slot by one. -/
theorem top_putS_succ (s : State) (k : Nat) : (putS (s.sp + 1) s).top k = s.top (k + 1) := by
  rw [State.top, putS_stackAddr, putS_sp, State.top, BitVec.add_assoc, Nat.add_comm, BitVec.ofNat_add]
  rfl

/-! ### Frames in sequence -/

theorem keeps_product {regs : List Reg} {flags : List Flag} {bytes : List Addr} {s t : State}
    (h : keeps regs flags bytes s t) : t.product = s.product := by
  obtain ⟨-, -, -, -, product, -⟩ := h
  exact product

theorem keeps_trans {regs : List Reg} {flags : List Flag} {bytes : List Addr} {s t u : State}
    (h : keeps regs flags bytes s t) (h' : keeps regs flags bytes t u) : keeps regs flags bytes s u := by
  obtain ⟨keptRegs, keptFlags, keptBytes, run, product, env, draws⟩ := h
  obtain ⟨keptRegs', keptFlags', keptBytes', run', product', env', draws'⟩ := h'
  refine ⟨fun r out => (keptRegs' r out).trans (keptRegs r out),
    fun f out => (keptFlags' f out).trans (keptFlags f out), fun a out => ?_, run'.trans run, product'.trans product,
    env'.trans env, draws'.trans draws⟩
  obtain ⟨cell, input⟩ := keptBytes a out
  obtain ⟨cell', input'⟩ := keptBytes' a out
  exact ⟨cell'.trans cell, input'.trans input⟩

/-- What was stored is still there after what keeps it. -/
theorem holdsAt_of_keeps_after {regs : List Reg} {flags : List Flag} {bytes : List Addr} {s t u : State} {a : Addr}
    {v : Byte} (h : holdsAt s t a v) (kept : keeps regs flags bytes t u) (out : a ∉ bytes) : holdsAt s u a v := by
  obtain ⟨-, -, keptBytes, -⟩ := kept
  obtain ⟨cell, input⟩ := keptBytes a out
  unfold holdsAt at h ⊢
  rwa [cell, input]

/-- What is stored after what leaves its address alone is stored as from the start. -/
theorem holdsAt_of_keeps_before {regs : List Reg} {flags : List Flag} {bytes : List Addr} {s t u : State} {a : Addr}
    {v : Byte} (kept : keeps regs flags bytes s t) (out : a ∉ bytes) (h : holdsAt t u a v) : holdsAt s u a v := by
  obtain ⟨-, -, keptBytes, -, product, -⟩ := kept
  obtain ⟨cell, input⟩ := keptBytes a out
  unfold holdsAt at h ⊢
  rwa [kind_of_product product, product, cell, input] at h

/-! ### A word pushed, a word pulled -/

/-- A write keeps everything but its byte and the shadows. -/
theorem keeps_written_self (s : State) (w : WriteScope) (a : Addr) (v : Byte) : keeps [] [] [a] s (s.written w a v) :=
  ⟨fun r _ => by cases r <;> simp [State.reg], fun f _ => written_flag s w a v f, written_bytesKept s w a v,
    written_runState .., written_product .., written_env .., written_draws ..⟩

/-- A push: the byte in the free slot, S down by one, nothing else (R14). -/
theorem push_of_mapped {s : State} (free : s.mapped (s.slot 0) = true) (v : Byte) :
    ∃ t, push v s = .next t ∧ holdsAt s t (s.slot 0) v ∧ t.sp = s.sp - 1 ∧ keeps [.s] [] [s.slot 0] s t := by
  have kept := keeps_written_self s .whole (s.slot 0) v
  refine ⟨putS (s.sp - 1) (s.written .whole (s.slot 0) v), ?_, holdsAt_written s .whole (s.slot 0) v, rfl,
    keeps_putS (keeps_mono kept (by simp) (by simp) (by simp)) (by simp) _⟩
  rw [slot_zero] at free ⊢
  exact push_eq_next.mpr ⟨free, rfl⟩

/-- A word pushed: its high byte in the free slot, its low byte below, S down by two, nothing else (R67). -/
theorem pushWord_of_mapped {s : State} (free0 : s.mapped (s.slot 0) = true) (free1 : s.mapped (s.slot 1) = true)
    (w : Addr) :
    ∃ t, pushWord w s = .next t ∧ holdsAt s t (s.slot 0) (hiByte w) ∧ holdsAt s t (s.slot 1) (loByte w) ∧
      t.sp = s.sp - 2 ∧ keeps [.s] [] [s.slot 0, s.slot 1] s t := by
  obtain ⟨u, pushHigh, high, sp, kept⟩ := push_of_mapped free0 (hiByte w)
  have product := keeps_product kept
  have below : u.slot 0 = s.slot 1 := slot_of_push product sp 0
  have free : u.mapped (u.slot 0) = true := by rw [below, mapped_of_product product, free1]
  obtain ⟨t, pushLow, low, sp', kept'⟩ := push_of_mapped free (loByte w)
  rw [below] at low kept'
  have ne := slot_zero_ne_slot_one s
  refine ⟨t, pushWord_eq_next.mpr ⟨u, pushHigh, pushLow⟩, holdsAt_of_keeps_after high kept' (by simpa using ne),
    holdsAt_of_keeps_before kept (by simpa using ne.symm) low, ?_, ?_⟩
  · rw [sp', sp, BitVec.sub_sub]
    rfl
  · exact keeps_trans (keeps_mono kept (by simp) (by simp) (by simp)) (keeps_mono kept' (by simp) (by simp) (by simp))

theorem pull_of_mapped {s : State} (above : s.mapped (s.top 1) = true) (k : Access) :
    pull k s = .next (s.byteAt k (s.top 1), putS (s.sp + 1) s) := pull_eq_next.mpr ⟨above, rfl⟩

/-- A word pulled: low byte first, S up by two, nothing else (R67). -/
theorem pullWord_of_mapped {s : State} (above1 : s.mapped (s.top 1) = true) (above2 : s.mapped (s.top 2) = true)
    (k₁ k₂ : Access) :
    pullWord k₁ k₂ s =
      .next (BitVec.ofNat 16 (256 * (s.byteAt k₂ (s.top 2)).toNat + (s.byteAt k₁ (s.top 1)).toNat),
        putS (s.sp + 2) s) := by
  have above : (putS (s.sp + 1) s).mapped ((putS (s.sp + 1) s).top 1) = true := by
    rw [top_putS_succ]
    exact above2
  refine pullWord_eq_next.mpr ⟨_, _, pull_of_mapped above1 k₁, pull_of_mapped above k₂, ?_⟩
  rw [top_putS_succ, putS_byteAt, putS_sp, BitVec.add_assoc, cat16_eq_ofNat]
  rfl

/-! ### JSR -/

/-- The return address of a call: that of the last byte of the instruction (R266). -/
theorem nextPc_succ_sub_one (s : State) (n : Nat) :
    s.nextPc (n + 1) - 1 = BitVec.ofNat 16 ((s.pc.toNat + n) % 65536) := by
  rw [State.nextPc]
  bv_omega

/-- What the forms of JSR share: the return address pushed, high byte first (R266). -/
theorem callOp_of_mapped {s : State} (free0 : s.mapped (s.slot 0) = true) (free1 : s.mapped (s.slot 1) = true)
    {n ret : Nat} (address : (s.pc.toNat + n) % 65536 = ret) :
    ∃ t, callOp (n + 1) s = .next t ∧ holdsAt s t (s.slot 0) (BitVec.ofNat 8 (ret / 256)) ∧
      holdsAt s t (s.slot 1) (BitVec.ofNat 8 ret) ∧ t.sp = s.sp - 2 ∧ keeps [.s] [] [s.slot 0, s.slot 1] s t := by
  have fits : ret < 65536 := by omega
  have low : BitVec.ofNat 8 (ret % 256) = BitVec.ofNat 8 ret := BitVec.eq_of_toNat_eq (by simp)
  obtain ⟨t, pushed, holdsHigh, holdsLow, sp, kept⟩ :=
    pushWord_of_mapped (s := s.begin (n + 1)) free0 free1 (s.nextPc (n + 1) - 1)
  rw [nextPc_succ_sub_one, address, hiByte_ofNat fits] at holdsHigh
  rw [nextPc_succ_sub_one, address, loByte_ofNat, low] at holdsLow
  exact ⟨t, pushed, holdsHigh, holdsLow, sp, keeps_trans (keeps_begin_of ..) kept⟩

theorem exec_jsrAbs (hhll : Addr) (s : State) :
    exec (.jsrAbs hhll) s = andThen (callOp 3 s) fun t => .next (t.goto hhll) := rfl

/-- The target of the special page form, whose high byte is not in the encoding (R117, R268). -/
theorem exec_jsrSp {hhll : Addr} (special : hhll.toNat / 256 = 255) (s : State) :
    exec (.jsrSp hhll) s = andThen (callOp 2 s) fun t => .next (t.goto hhll) := by
  have high : hiByte hhll = 0xFF := BitVec.eq_of_toNat_eq ((hiByte_toNat hhll).trans special)
  show andThen (callOp 2 s) (fun t => .next (t.goto (cat16 0xFF (loByte hhll)))) = _
  rw [← high, cat16_hiByte_loByte]

theorem exec_jsrZpInd (zz : Byte) (s : State) :
    exec (.jsrZpInd zz) s = andThen (callOp 2 s) fun t => andThen (readZpWord zz t) fun p => .next (t.goto p) := rfl

/-- A form of JSR whose target does not depend on the pushes. -/
theorem calls_of_goto {i : Instr} {s : State} (free0 : s.mapped (s.slot 0) = true)
    (free1 : s.mapped (s.slot 1) = true) {n ret : Nat} (address : (s.pc.toNat + n) % 65536 = ret) {target : Addr}
    (runs : exec i s = andThen (callOp (n + 1) s) fun t => .next (t.goto target)) :
    ∃ t, exec i s = .next t ∧ t.pc = target ∧ holdsAt s t (s.slot 0) (BitVec.ofNat 8 (ret / 256)) ∧
      holdsAt s t (s.slot 1) (BitVec.ofNat 8 ret) ∧ t.sp = s.sp - 2 ∧ keeps [.s] [] [s.slot 0, s.slot 1] s t := by
  obtain ⟨t, called, holdsHigh, holdsLow, sp, kept⟩ := callOp_of_mapped free0 free1 address
  rw [called, andThen_next] at runs
  exact ⟨_, runs, rfl, holdsHigh, holdsLow, sp, keeps_goto kept target⟩

/-- Settles O43: every form shares the pushes; the zero-page pointer is read from the state they leave. -/
theorem jsrCalls : Obligations.JsrCalls := by
  intro s free0 free1
  refine ⟨fun hhll => calls_of_goto free0 free1 (n := 2) rfl (exec_jsrAbs hhll s), fun hhll special =>
    calls_of_goto free0 free1 (n := 1) rfl (exec_jsrSp special s), fun zz hi next low high => ?_⟩
  obtain ⟨t, called, holdsHigh, holdsLow, sp, kept⟩ := callOp_of_mapped free0 free1 (n := 1) rfl
  have product := keeps_product kept
  have pointer := readZpWord_of_mapped ((zpNext_of_product product zz).trans next)
    ((mapped_of_product product _).trans low) ((mapped_of_product product _).trans high)
  have runs := exec_jsrZpInd zz s
  rw [called, andThen_next, pointer, andThen_next] at runs
  exact ⟨_, runs, rfl, holdsHigh, holdsLow, sp, keeps_goto kept _⟩

/-! ### RTS and RTI -/

/-- Settles O44: the word pulled, and one more. -/
theorem rtsReturns : Obligations.RtsReturns := by
  intro s above1 above2
  have pulled := pullWord_of_mapped (s := s.begin 1) above1 above2 .pull1 .pull2
  have runs : exec .rts s = andThen (pullWord .pull1 .pull2 (s.begin 1)) fun w => .next (w.2.goto (w.1 + 1)) := rfl
  rw [pulled, andThen_next] at runs
  exact ⟨_, runs, (BitVec.ofNat_add ..).symm, rfl, begin_shadowsClear s 1,
    keeps_goto (keeps_putS (keeps_begin_of ..) (by simp) _) _⟩

/-- Settles O48: PS is pulled first, and the word above it goes to PC as it is. -/
theorem rtiReturns : Obligations.RtiReturns := by
  intro s above1 above2 above3
  have second : (putS (s.sp + 1) (s.begin 1)).top 1 = s.top 2 := top_putS_succ s 1
  have third : (putS (s.sp + 1) (s.begin 1)).top 2 = s.top 3 := top_putS_succ s 2
  have psPulled := pull_of_mapped (s := s.begin 1) above1 .pull1
  have pcPulled := pullWord_of_mapped (s := putS (s.sp + 1) (s.begin 1)) (second ▸ above2) (third ▸ above3)
    .pull2 .pull3
  rw [second, third] at pcPulled
  have runs : exec .rti s = _ := returnFromInterrupt_eq_next.mpr ⟨_, _, psPulled, pcPulled, rfl⟩
  exact ⟨_, runs, rfl, rfl, BitVec.add_assoc s.sp 1 2, begin_shadowsClear s 1,
    keeps_goto (keeps_putPs (keeps_putS (keeps_begin_of ..) (by simp) _) _) _⟩

/-! ### RTS after JSR -/

/-- Whatever its form, JSR is a call of its own length that goes somewhere. -/
theorem exec_jsr_eq_next {i : Instr} {s t : State} (jsr : mnemonic i = .jsr) (h : exec i s = .next t) :
    ∃ n u target, instrLength i = n + 1 ∧ callOp (n + 1) s = .next u ∧ t = u.goto target := by
  cases i <;> cases jsr
  case jsrZpInd zz =>
    obtain ⟨u, called, h⟩ := andThen_eq_next.mp h
    obtain ⟨p, -, h⟩ := andThen_eq_next.mp h
    cases h
    exact ⟨1, u, p, rfl, called, rfl⟩
  case jsrAbs | jsrSp =>
    obtain ⟨u, called, h⟩ := andThen_eq_next.mp h
    cases h
    exact ⟨_, u, _, rfl, called, rfl⟩

theorem mapped_of_ram {s : State} {a : Addr} (ram : s.kind a = .ram) : s.mapped a = true :=
  mapped_iff.mpr (by simp [ram])

/-- What is stored in RAM is read back. -/
theorem byteAt_of_holdsAt_ram {s t : State} {a : Addr} {v : Byte} (ram : s.kind a = .ram)
    (product : t.product = s.product) (h : holdsAt s t a v) (k : Access) : t.byteAt k a = v := by
  rw [holdsAt, ram] at h
  obtain ⟨cell, -⟩ := h
  exact (byteAt_of_memory (.inl ((kind_of_product product a).trans ram)) k).trans cell

/-- After two pushes the bytes above the free slot are the slots that were free, the last pushed first. -/
theorem top_of_pushed_word {s t : State} (product : t.product = s.product) (sp : t.sp = s.sp - 2) :
    t.top 1 = s.slot 1 ∧ t.top 2 = s.slot 0 := by
  have first : t.sp + BitVec.ofNat 8 1 = s.sp - BitVec.ofNat 8 1 := by bv_omega
  have second : t.sp + BitVec.ofNat 8 2 = s.sp - BitVec.ofNat 8 0 := by bv_omega
  constructor
  · rw [State.top, first, stackAddr_of_product product, State.slot]
  · rw [State.top, second, stackAddr_of_product product, State.slot]

/-- Settles O45: RTS reads the two bytes the call stored, and the address after the one they name is that of the next
instruction. -/
theorem callThenReturn : Obligations.CallThenReturn := by
  intro i s t jsr runs ram0 ram1
  obtain ⟨n, u, target, length, called, rfl⟩ := exec_jsr_eq_next jsr runs
  obtain ⟨u', called', high, low, sp, kept⟩ :=
    callOp_of_mapped (mapped_of_ram ram0) (mapped_of_ram ram1) (n := n) rfl
  obtain rfl : u = u' := Host.Outcome.next.inj (called.symm.trans called')
  have product : (u.goto target).product = s.product := keeps_product kept
  obtain ⟨first, second⟩ := top_of_pushed_word product sp
  have lowByte := byteAt_of_holdsAt_ram ram1 product low .pull1
  have highByte := byteAt_of_holdsAt_ram ram0 product high .pull2
  have mappedAfter (a : Addr) (ram : s.kind a = .ram) : (u.goto target).mapped a = true :=
    (mapped_of_product product a).trans (mapped_of_ram ram)
  obtain ⟨v, returned, pc, spBack, -⟩ := rtsReturns (u.goto target) (first ▸ mappedAfter _ ram1)
    (second ▸ mappedAfter _ ram0)
  refine ⟨v, returned, ?_, ?_⟩
  · rw [pc, first, second, lowByte, highByte, length, State.nextPc]
    bv_omega
  · rw [spBack, goto_sp, sp]
    bv_omega

end Sys2Proof.Machine

/-! BRK, STP, WIT and NOP (45_interrupt_special_other.md): the trap, and the instructions that stop the clock or do nothing. -/

namespace Sys2Proof.Machine

/-! ### STP, WIT and NOP -/

theorem exec_stp_of_stop {s : State} (mode : s.product.stpMode = .stop) :
    exec .stp s = .next ((s.begin 1).enter .stop) := by
  show execStp s = _
  rw [execStp, mode]

theorem exec_stp_of_nop {s : State} (mode : s.product.stpMode = .nop) : exec .stp s = .next (s.begin 1) := by
  show execStp s = _
  rw [execStp, mode]

/-- An instruction that does nothing but enter a run state, the one it found included. -/
theorem standsBy_of_enter {i : Instr} {s : State} {r : RunState} (runs : exec i s = .next ((s.begin 1).enter r)) :
    ∃ t, exec i s = .next t ∧ t.runState = r ∧ t.pc = s.nextPc 1 ∧ t.shadowsClear ∧
      keeps [] [] [] s { t with runState := s.runState } :=
  ⟨_, runs, rfl, rfl, begin_shadowsClear s 1, keeps_begin s 1⟩

/-- Settles O50: STP_MODE decides whether STP is a Stop or a NOP. -/
theorem clockControl : Obligations.ClockControl := fun s =>
  ⟨fun mode => standsBy_of_enter (exec_stp_of_stop mode), fun mode => standsBy_of_enter (exec_stp_of_nop mode),
    standsBy_of_enter rfl, rfl, cycles_of_implied (m := .nop) rfl s,
    ⟨_, rfl, trivial, rfl, begin_shadowsClear s 1, keeps_begin s 1⟩⟩

/-! ### Frames -/

theorem keeps_refl (s : State) : keeps [] [] [] s s :=
  ⟨fun _ _ => rfl, fun _ _ => rfl, fun _ _ => ⟨rfl, rfl⟩, rfl, rfl, rfl, rfl⟩

theorem keeps_reg {regs : List Reg} {flags : List Flag} {bytes : List Addr} {s t : State}
    (h : keeps regs flags bytes s t) {r : Reg} (out : r ∉ regs) : t.reg r = s.reg r := by
  obtain ⟨keptRegs, -⟩ := h
  exact keptRegs r out

theorem keeps_runState {regs : List Reg} {flags : List Flag} {bytes : List Addr} {s t : State}
    (h : keeps regs flags bytes s t) : t.runState = s.runState := by
  obtain ⟨-, -, -, run, -⟩ := h
  exact run

/-- What keeps every flag keeps PS. -/
theorem keeps_ps {regs : List Reg} {bytes : List Addr} {s t : State} (h : keeps regs [] bytes s t) : t.ps = s.ps := by
  obtain ⟨-, keptFlags, -⟩ := h
  exact ps_ext fun f => keptFlags f (by simp)

/-- Going through a vector changes PC, the shadows and the run state only. -/
theorem keeps_through_vector {regs : List Reg} {flags : List Flag} {bytes : List Addr} {s t : State}
    (h : keeps regs flags bytes s t) (target : Addr) (r : RunState) :
    keeps regs flags bytes s { (t.clearShadows.goto target).enter r with runState := t.runState } := by
  obtain ⟨keptRegs, rest⟩ := h
  exact ⟨fun r out => by cases r <;> exact keptRegs _ out, rest⟩

/-! ### The interrupt frame -/

/-- The 256 slots of the stack page are different addresses. -/
theorem slot_inj {s : State} {j k : Nat} (hj : j < 256) (hk : k < 256) : s.slot j = s.slot k ↔ j = k := by
  rw [State.slot, State.slot, stackAddr_inj]
  bv_omega

/-- The free slot after a word pushed. -/
theorem slot_of_pushed_word {s t : State} (product : t.product = s.product) (sp : t.sp = s.sp - 2) :
    t.slot 0 = s.slot 2 := by
  rw [State.slot, stackAddr_of_product product, sp, State.slot]
  exact congrArg s.stackAddr (BitVec.sub_zero _)

/-- The frame of BRK and of a hardware interrupt: PCH, PCL and PS in the three free slots, S down by three, nothing else
(R280, R312). -/
theorem pushFrame_of_mapped {s : State} (free0 : s.mapped (s.slot 0) = true) (free1 : s.mapped (s.slot 1) = true)
    (free2 : s.mapped (s.slot 2) = true) (ret : Addr) (ps : Byte) :
    ∃ t, pushFrame ret ps s = .next t ∧ holdsAt s t (s.slot 0) (hiByte ret) ∧ holdsAt s t (s.slot 1) (loByte ret) ∧
      holdsAt s t (s.slot 2) ps ∧ t.sp = s.sp - 3 ∧ keeps [.s] [] [s.slot 0, s.slot 1, s.slot 2] s t := by
  obtain ⟨u, pushedWord, high, low, sp, kept⟩ := pushWord_of_mapped free0 free1 ret
  have product := keeps_product kept
  have below : u.slot 0 = s.slot 2 := slot_of_pushed_word product sp
  have free : u.mapped (u.slot 0) = true := by rw [below, mapped_of_product product, free2]
  obtain ⟨t, pushedPs, status, sp', kept'⟩ := push_of_mapped free ps
  rw [below] at status kept'
  have apart0 : s.slot 0 ≠ s.slot 2 := by simp [slot_inj]
  have apart1 : s.slot 1 ≠ s.slot 2 := by simp [slot_inj]
  refine ⟨t, pushFrame_eq_next.mpr ⟨u, pushedWord, pushedPs⟩, holdsAt_of_keeps_after high kept' (by simpa using apart0),
    holdsAt_of_keeps_after low kept' (by simpa using apart1),
    holdsAt_of_keeps_before kept (by simp [apart0.symm, apart1.symm]) status, ?_, ?_⟩
  · rw [sp', sp, BitVec.sub_sub]
    rfl
  · exact keeps_trans (keeps_mono kept (by simp) (by simp) (by simp)) (keeps_mono kept' (by simp) (by simp) (by simp))

/-! ### BRK -/

theorem exec_brk (s : State) :
    exec .brk s = takeInterrupt true (s.nextPc 2) (brkVectorUsed s) none (s.begin 1) := rfl

/-- BRK_VECTOR unless I is 1 and some source has its request and enable bits both 1 (R281). -/
theorem brkVectorUsed_of_no_source {s : State} (h : s.flag .i = false ∨ s.requesting = []) :
    brkVectorUsed s = s.product.brkVector := by
  rcases h with unmasked | noSource
  · rw [brkVectorUsed, unmasked]
  · rw [brkVectorUsed, noSource]
    cases s.flag .i <;> rfl

/-- While I is 1, the vector of the source of the highest priority (R281). -/
theorem brkVectorUsed_of_source {s : State} {k : IrqSource} (masked : s.flag .i = true)
    (highest : highestOf s.requesting = some k) : brkVectorUsed s = k.vector := by
  rw [brkVectorUsed, masked, highest]

theorem nextPc_eq_ofNat_mod (s : State) (n : Nat) : s.nextPc n = BitVec.ofNat 16 ((s.pc.toNat + n) % 65536) := by
  rw [State.nextPc]
  bv_omega

theorem hiByte_nextPc (s : State) (n : Nat) :
    hiByte (s.nextPc n) = BitVec.ofNat 8 ((s.pc.toNat + n) % 65536 / 256) := by
  rw [nextPc_eq_ofNat_mod, hiByte_ofNat (Nat.mod_lt _ (by decide))]

theorem loByte_nextPc (s : State) (n : Nat) : loByte (s.nextPc n) = BitVec.ofNat 8 (s.pc.toNat + n) := by
  rw [nextPc_eq_ofNat_mod, loByte_ofNat]
  apply BitVec.eq_of_toNat_eq
  rw [BitVec.toNat_ofNat, BitVec.toNat_ofNat]
  omega

theorem putFlag_b_true (ps : Byte) : putFlag ps .b true = ps ||| 0x10 := rfl

theorem putFlag_b_i_true (ps : Byte) : putFlag (putFlag ps .b true) .i true = ps ||| 0x14 :=
  BitVec.or_assoc ps 0x10 0x04

/-- A trap once its frame is pushed: B and I are 1, through the vector, Running, the shadows clear, nothing else (R280). -/
theorem takeInterrupt_of_pushFrame {s u : State} {ret v : Addr} (pushed : pushFrame ret (s.ps ||| 0x10) s = .next u)
    (low : u.mapped v = true) (high : u.mapped (v + 1) = true) :
    ∃ t, takeInterrupt true ret v none s = .next t ∧ t.ps = u.ps ||| 0x14 ∧
      t.pc = BitVec.ofNat 16 (256 * (t.byteAt .vectorHi (v + 1)).toNat + (t.byteAt .vectorLo v).toNat) ∧
      t.runState = .running ∧ t.shadowsClear ∧ keeps [] [.b, .i] [] u { t with runState := u.runState } := by
  rw [← putFlag_b_true] at pushed
  have flagged : flagsWritten [.b, .i] u ((u.setFlag .b true).setFlag .i true) :=
    flagsWritten_setFlag (flagsWritten_setFlag (flagsWritten_refl _ u) (by simp) true) (by simp) true
  refine ⟨_, takeInterrupt_eq_next.mpr ⟨u, _, _, pushed, rfl, readWord_of_mapped low high .vectorLo .vectorHi, rfl⟩,
    putFlag_b_i_true u.ps, ?_, rfl, ⟨rfl, rfl, rfl, rfl⟩,
    keeps_through_vector (keeps_of_flagsWritten (keeps_refl u) flagged) _ .running⟩
  simp

/-- A trap where its frame and its vector are mapped. -/
theorem takeInterrupt_of_mapped {s : State} {v : Addr} (free0 : s.mapped (s.slot 0) = true)
    (free1 : s.mapped (s.slot 1) = true) (free2 : s.mapped (s.slot 2) = true) (low : s.mapped v = true)
    (high : s.mapped (v + 1) = true) (ret : Addr) :
    ∃ t, takeInterrupt true ret v none s = .next t ∧ holdsAt s t (s.slot 0) (hiByte ret) ∧
      holdsAt s t (s.slot 1) (loByte ret) ∧ holdsAt s t (s.slot 2) (s.ps ||| 0x10) ∧ t.sp = s.sp - 3 ∧
      t.ps = s.ps ||| 0x14 ∧
      t.pc = BitVec.ofNat 16 (256 * (t.byteAt .vectorHi (v + 1)).toNat + (t.byteAt .vectorLo v).toNat) ∧
      t.runState = .running ∧ t.shadowsClear ∧
      keeps [.s] [.b, .i] [s.slot 0, s.slot 1, s.slot 2] s { t with runState := s.runState } := by
  obtain ⟨u, pushed, holdsHigh, holdsLow, holdsPs, sp, kept⟩ :=
    pushFrame_of_mapped free0 free1 free2 ret (s.ps ||| 0x10)
  have product := keeps_product kept
  obtain ⟨t, taken, ps, pc, run, clear, kept'⟩ := takeInterrupt_of_pushFrame pushed
    ((mapped_of_product product v).trans low) ((mapped_of_product product (v + 1)).trans high)
  rw [keeps_ps kept] at ps
  rw [keeps_runState kept] at kept'
  have stillHolds {a : Addr} {byte : Byte} (h : holdsAt s u a byte) : holdsAt s t a byte :=
    holdsAt_of_keeps_after (u := { t with runState := s.runState }) h kept' (by simp)
  refine ⟨t, taken, stillHolds holdsHigh, stillHolds holdsLow, stillHolds holdsPs,
    (keeps_reg kept' (r := .s) (by simp)).trans sp, ps, pc, run, clear, ?_⟩
  exact keeps_trans (keeps_mono kept (by simp) (by simp) (by simp)) (keeps_mono kept' (by simp) (by simp) (by simp))

/-- Settles O46: BRK is a trap taken after the shadows are cleared, through the vector chosen before the pushes. -/
theorem brkTraps : Obligations.BrkTraps := by
  intro s v free0 free1 free2 low high chosen
  have vector : brkVectorUsed s = v := by
    obtain ⟨noSource, rfl⟩ | ⟨masked, k, highest, rfl⟩ := chosen
    · exact brkVectorUsed_of_no_source noSource
    · exact brkVectorUsed_of_source masked highest
  obtain ⟨t, taken, holdsHigh, holdsLow, holdsPs, sp, ps, pc, run, clear, keptRegs, -, keptBytes, -, product, env, draws⟩ :=
    takeInterrupt_of_mapped (s := s.begin 1) free0 free1 free2 low high (s.nextPc 2)
  rw [hiByte_nextPc] at holdsHigh
  rw [loByte_nextPc] at holdsLow
  rw [← vector, ← exec_brk] at taken
  exact ⟨t, taken, holdsHigh, holdsLow, holdsPs, keptBytes, sp, ps, pc, run, clear, keptRegs .a (by simp),
    keptRegs .x (by simp), keptRegs .y (by simp), product, env, draws⟩

end Sys2Proof.Machine

/-! Interrupts (60_exceptions.md): which source is accepted, what the entry does, and the return from it. -/

namespace Sys2Proof.Machine

/-! ### Acceptance -/

/-- The pending set is the requests of R310 that are enabled, with the stale ones of R351. -/
theorem mem_pending {s : State} {k : IrqSource} :
    k ∈ s.pending ↔ k ∈ s.product.irqSources ∧
      ((s.cell k.reqAddr).getLsbD k.reqBit.val = true ∧ (s.cell k.enAddr).getLsbD k.enBit.val = true ∨ k ∈ s.stale) := by
  simp only [State.pending, State.requested, State.enabled, List.mem_filter, Bool.or_eq_true, Bool.and_eq_true,
    decide_eq_true_eq]

/-- The pending sources that can be entered from the run state: in Stop the external ones only (R325, log 16). -/
def State.candidates (s : State) : List IrqSource :=
  s.pending.filter fun k => decide (s.runState ≠ .stop) || k.external

theorem mem_candidates {s : State} {k : IrqSource} :
    k ∈ s.candidates ↔ k ∈ s.pending ∧ (s.runState = .stop → k.external = true) := by
  simp only [State.candidates, List.mem_filter, Bool.or_eq_true, decide_eq_true_eq, Decidable.imp_iff_not_or, ne_eq]

/-- With I = 0 the source accepted is the candidate of the highest priority (R310, R315, R325). -/
theorem acceptable_of_unmasked {s : State} (unmasked : s.flag .i = false) : s.acceptable = highestOf s.candidates := by
  rw [State.acceptable, unmasked, State.candidates]
  cases s.runState <;> simp

/-- Nothing is accepted but with I = 0 (R310). -/
theorem flag_i_of_acceptable {s : State} {k : IrqSource} (accepted : s.acceptable = some k) : s.flag .i = false :=
  Bool.eq_false_iff.mpr fun masked => by simp [acceptable_of_flag_i masked] at accepted

/-- Settles O51: the source accepted is the highest of the candidates, and there is one when there is a candidate. -/
theorem acceptance : Obligations.Acceptance := by
  intro s
  refine ⟨fun k => mem_pending, fun k accepted => ?accepted, fun unmasked ⟨k, candidate⟩ => ?accepts⟩
  case accepted =>
    have unmasked := flag_i_of_acceptable accepted
    rw [acceptable_of_unmasked unmasked] at accepted
    obtain ⟨mem, highest⟩ := highestOf_eq_some accepted
    obtain ⟨pending, external⟩ := mem_candidates.mp mem
    exact ⟨unmasked, pending, external, fun j isPending may => highest j (mem_candidates.mpr ⟨isPending, may⟩)⟩
  case accepts =>
    rw [acceptable_of_unmasked unmasked]
    exact highestOf_isSome (List.ne_nil_of_mem (mem_candidates.mpr candidate))

/-! ### The request bit of the accepted source -/

theorem clearRequest_cell (s : State) (k : IrqSource) (a : Addr) :
    (s.clearRequest k).cell a = if k.reqAddr = a then clearBit (s.cell k.reqAddr) k.reqBit.val else s.cell a :=
  setCell_cell ..

theorem keeps_clearRequest {regs : List Reg} {flags : List Flag} {bytes : List Addr} {s t : State} {k : IrqSource}
    (h : keeps regs flags bytes s t) (mem : k.reqAddr ∈ bytes) : keeps regs flags bytes s (t.clearRequest k) := by
  obtain ⟨keptRegs, keptFlags, keptBytes, rest⟩ := h
  refine ⟨fun r out => by cases r <;> exact keptRegs _ out, keptFlags, fun a out => ?_, rest⟩
  have ne : k.reqAddr ≠ a := fun eq => out (eq ▸ mem)
  rw [clearRequest_cell, if_neg ne]
  exact keptBytes a out

/-! ### Entry -/

theorem putFlag_b_false (ps : Byte) : putFlag ps .b false = ps &&& 0xEF := rfl

theorem putFlag_b_false_i_true (ps : Byte) : putFlag (putFlag ps .b false) .i true = ps &&& 0xEF ||| 0x04 := rfl

theorem hiByte_eq_ofNat (w : Addr) : hiByte w = BitVec.ofNat 8 (w.toNat / 256) := by
  rw [← hiByte_toNat, BitVec.ofNat_toNat, BitVec.setWidth_eq]

theorem loByte_eq_ofNat (w : Addr) : loByte w = BitVec.ofNat 8 w.toNat := by
  apply BitVec.eq_of_toNat_eq
  rw [loByte_toNat, BitVec.toNat_ofNat]

/-- A source is entered only when its vector is mapped. -/
theorem vector_mapped_of_interruptEntry {k : IrqSource} {s t : State} (entered : interruptEntry k s = .next t) :
    s.mapped k.vector = true ∧ s.mapped (k.vector + 1) = true := by
  have reached : Reaches (fun _ => True) s t :=
    takeInterrupt_reaches trivial trivial trivial trivial trivial (fun _ _ => trivial) entered
  obtain ⟨u, w, target, -, -, vector, rfl⟩ := takeInterrupt_eq_next.mp entered
  obtain ⟨low, high, -⟩ := readWord_eq_next.mp vector
  have sameMap := mapped_of_product reached.product_eq
  exact ⟨(sameMap k.vector).symm.trans low, (sameMap (k.vector + 1)).symm.trans high⟩

/-- A hardware interrupt once its frame is pushed: B is 0, I is 1 and the request bit 0, through the vector, Running, the
shadows clear, nothing else (R312, R313). -/
theorem interruptEntry_of_pushFrame {k : IrqSource} {s u : State} (pushed : pushFrame s.pc (s.ps &&& 0xEF) s = .next u)
    (low : u.mapped k.vector = true) (high : u.mapped (k.vector + 1) = true) :
    ∃ t, interruptEntry k s = .next t ∧ t.cell k.reqAddr = clearBit (u.cell k.reqAddr) k.reqBit.val ∧
      t.ps = u.ps &&& 0xEF ||| 0x04 ∧
      t.pc = BitVec.ofNat 16
        (256 * (t.byteAt .vectorHi (k.vector + 1)).toNat + (t.byteAt .vectorLo k.vector).toNat) ∧
      t.runState = .running ∧ t.shadowsClear ∧
      keeps [] [.b, .i] [k.reqAddr] u { t with runState := u.runState } := by
  rw [← putFlag_b_false] at pushed
  have flagged : flagsWritten [.b, .i] u ((u.setFlag .b false).setFlag .i true) :=
    flagsWritten_setFlag (flagsWritten_setFlag (flagsWritten_refl _ u) (by simp) false) (by simp) true
  have kept : keeps [] [.b, .i] [k.reqAddr] u ((u.setFlag .b false).setFlag .i true) :=
    keeps_mono (keeps_of_flagsWritten (keeps_refl u) flagged) (by simp) (by simp) (by simp)
  have cleared := keeps_clearRequest (k := k) kept (by simp)
  have sameMap := mapped_of_product (keeps_product cleared)
  have vector := readWord_of_mapped ((sameMap _).trans low) ((sameMap _).trans high) .vectorLo .vectorHi
  refine ⟨_, takeInterrupt_eq_next.mpr ⟨u, _, _, pushed, rfl, vector, rfl⟩, ?_, putFlag_b_false_i_true u.ps, ?_, rfl,
    ⟨rfl, rfl, rfl, rfl⟩, keeps_through_vector cleared _ .running⟩
  · simp [clearRequest_cell]
  · simp

/-- Settles O47: the frame is pushed first, so what it holds is as pushed wherever the request bit does not lie. -/
theorem interruptEntered : Obligations.InterruptEntered := by
  intro s k free0 free1 free2 low high
  obtain ⟨u, pushed, holdsHigh, holdsLow, holdsPs, sp, kept⟩ :=
    pushFrame_of_mapped free0 free1 free2 s.pc (s.ps &&& 0xEF)
  rw [hiByte_eq_ofNat] at holdsHigh
  rw [loByte_eq_ofNat] at holdsLow
  have product := keeps_product kept
  obtain ⟨t, entered, request, ps, pc, run, clear, kept'⟩ := interruptEntry_of_pushFrame pushed
    ((mapped_of_product product k.vector).trans low) ((mapped_of_product product (k.vector + 1)).trans high)
  rw [keeps_ps kept] at ps
  rw [keeps_runState kept] at kept'
  have stillHolds {a : Addr} {byte : Byte} (h : holdsAt s u a byte) (ne : a ≠ k.reqAddr) : holdsAt s t a byte :=
    holdsAt_of_keeps_after (u := { t with runState := s.runState }) h kept' (by simpa using ne)
  have whole : keeps [.s] [.b, .i] [s.slot 0, s.slot 1, s.slot 2, k.reqAddr] s { t with runState := s.runState } :=
    keeps_trans (keeps_mono kept (by simp) (by simp) (by simp)) (keeps_mono kept' (by simp) (by simp) (by simp))
  obtain ⟨keptRegs, -, keptBytes, -, sameProduct, env, draws⟩ := whole
  refine ⟨t, entered, stillHolds holdsHigh, stillHolds holdsLow, stillHolds holdsPs, ?requestBit, fun apart j _ other =>
    ?otherBits, keptBytes, (keeps_reg kept' (r := .s) (by simp)).trans sp, ps, pc, run, clear, keptRegs .a (by simp),
    keptRegs .x (by simp), keptRegs .y (by simp), sameProduct, env, draws⟩
  case requestBit =>
    rw [request, clearBit_bits, decide_eq_true rfl, Bool.not_true, Bool.false_and]
  case otherBits =>
    obtain ⟨-, -, keptByFrame, -⟩ := kept
    obtain ⟨cell, -⟩ := keptByFrame k.reqAddr apart
    rw [request, clearBit_bits, decide_eq_false other, Bool.not_false, Bool.true_and, cell]

/-! ### RTI after an entry -/

/-- After `n` pushes the bytes above the free slot are the slots that were free, the last pushed first. -/
theorem top_of_pushed {s t : State} {n j k : Nat} (product : t.product = s.product)
    (sp : t.sp = s.sp - BitVec.ofNat 8 n) (count : j + k = n) : t.top k = s.slot j := by
  rw [State.top, stackAddr_of_product product, sp, State.slot, ← count, BitVec.ofNat_add]
  exact congrArg s.stackAddr (by ring)

/-- Settles O49: RTI reads the three bytes the entry stored, and of PS the entry stored all but B. -/
theorem interruptThenReturn : Obligations.InterruptThenReturn := by
  intro s t k entered ram0 ram1 ram2 apart
  obtain ⟨apart0, apart1, apart2⟩ : s.slot 0 ≠ k.reqAddr ∧ s.slot 1 ≠ k.reqAddr ∧ s.slot 2 ≠ k.reqAddr := by
    simpa [eq_comm] using apart
  obtain ⟨low, high⟩ := vector_mapped_of_interruptEntry entered
  obtain ⟨t', entered', holdsHigh, holdsLow, holdsPs, -, -, -, sp, -, -, -, -, a, x, y, product, -⟩ :=
    interruptEntered s k (mapped_of_ram ram0) (mapped_of_ram ram1) (mapped_of_ram ram2) low high
  obtain rfl : t = t' := Host.Outcome.next.inj (entered.symm.trans entered')
  have top1 : t.top 1 = s.slot 2 := top_of_pushed (n := 3) product sp rfl
  have top2 : t.top 2 = s.slot 1 := top_of_pushed (n := 3) product sp rfl
  have top3 : t.top 3 = s.slot 0 := top_of_pushed (n := 3) product sp rfl
  have mappedAfter {a : Addr} (ram : s.kind a = .ram) : t.mapped a = true :=
    (mapped_of_product product a).trans (mapped_of_ram ram)
  obtain ⟨u, returned, ps, pc, spBack, -, keptByRti, -⟩ :=
    rtiReturns t (top1 ▸ mappedAfter ram2) (top2 ▸ mappedAfter ram1) (top3 ▸ mappedAfter ram0)
  rw [top1, byteAt_of_holdsAt_ram ram2 product (holdsPs apart2), ← putFlag_b_false] at ps
  rw [top3, top2, byteAt_of_holdsAt_ram ram0 product (holdsHigh apart0),
    byteAt_of_holdsAt_ram ram1 product (holdsLow apart1), ← hiByte_eq_ofNat, ← loByte_eq_ofNat, ← cat16_eq_ofNat,
    cat16_hiByte_loByte] at pc
  have flags (f : Flag) : u.flag f = if f = .b then false else s.flag f := by
    rw [State.flag, ps, getFlag_putFlag, State.flag]
  refine ⟨u, returned, pc, ?_, (keptByRti .a (by simp)).trans a, (keptByRti .x (by simp)).trans x,
    (keptByRti .y (by simp)).trans y, flags .b, fun f ne => (flags f).trans (if_neg ne)⟩
  rw [spBack, sp, BitVec.sub_add_cancel]

end Sys2Proof.Machine

/-! Hazards (70_reset_and_hazards.md): the sequences the manual forbids (R350, R352, R355), and the write that leaves a
request pending behind it (R351). -/

namespace Sys2Proof.Machine

/-! ### The forbidden successors -/

/-- After decimal arithmetic, no PLP before it, the opcodes of SEC, CLC and CLD are forbidden (R355). -/
theorem opcodeHazard_of_decimal {op : Byte} {s : State} (noPlp : s.lastWasPlp = false) (dec : s.lastWasDecimal = true)
    (hop : op = 0x38 ∨ op = 0x18 ∨ op = 0xD8) : opcodeHazard op s = some .decimalSuccessor := by
  unfold opcodeHazard
  obtain rfl | rfl | rfl := hop <;> rw [noPlp, dec] <;> rfl

theorem requestHazard_of_touched {s : State} {a : Addr} {bits : List Nat} {b : Nat} {zz rr : Byte} {i : Instr}
    (touched : s.touched = some (a, bits)) (names : zext16 zz = a) (mem : b ∈ bits)
    (tests : i = .bbcZp b zz rr ∨ i = .bbsZp b zz rr) : requestHazard i s = true := by
  have tested : testsTouched s.touched b zz = true := by simp [testsTouched, touched, names, mem]
  obtain rfl | rfl := tests <;> exact tested

/-- Only the one-byte opcodes are among those forbidden after decimal arithmetic, so a longer instruction is not held back
by its opcode (R355). -/
theorem opcodeHazard_of_longer {op b1 b2 : Byte} {f : OpForm} {s : State} (noPlp : s.lastWasPlp = false)
    (defined : decodeOp op = some f) (longer : 1 < instrLength (f.instr b1 b2)) : opcodeHazard op s = none := by
  refine opcodeHazard_of_operands noPlp fun i one => ?_
  have short := (decodeOp_head_length one b1 b2).2
  rw [Option.some.inj (defined.symm.trans one), short] at longer
  exact absurd longer (by simp [OpForm.bytes])

/-- The test of a request bit just written stops after its operands are fetched (R352). -/
theorem fetchPermitted_of_requestHazard {s : State} {i : Instr} (hd : decode s.codeBytes = .ok i)
    (hm : ∀ k, k < instrLength i → s.mapped (s.codeAddr k) = true) (noPlp : s.lastWasPlp = false)
    (longer : 1 < instrLength i) (hmd : mnemonic i = .mul ∨ mnemonic i = .div → s.product.hasMulDiv = true)
    (hazard : requestHazard i s = true) : fetchPermitted s = .refused .requestBitSuccessor := by
  obtain ⟨f, hf, rfl, len⟩ := decode_codeBytes hd
  have opcodeMapped : s.mapped s.pc = true := by simpa [State.codeAddr] using hm 0 (by omega)
  rw [len] at hm
  simp only [fetchPermitted, readByte_of_mapped opcodeMapped, andThen_next, opcodeHazard_of_longer noPlp hf longer,
    opcodeForm_of_decodeOp hf hmd, fetchOperands_of_mapped fun k _ => hm k, hazard, if_true]

/-- Settles O7: the three refusals by the fetch, and the instructions that run by O5. -/
theorem hazardRefusals : Obligations.HazardRefusals := by
  intro s turn running nothing mapped
  have stops {r : Refusal} (h : fetchPermitted s.turnTaken = .refused r) : step s = .refused r := by
    rw [step_of_running turn running nothing, runInstr, h, andThen_refused]
  refine ⟨fun plp notNop => ?afterPlp, fun noPlp dec op => ?afterDecimal, fun i hd hm => ⟨?afterRequest, ?runs⟩⟩
  case afterPlp => exact stops (fetchPermitted_of_hazard (s := s.turnTaken) mapped (opcodeHazard_of_plp plp notNop))
  case afterDecimal =>
    exact stops (fetchPermitted_of_hazard (s := s.turnTaken) mapped (opcodeHazard_of_decimal noPlp dec op))
  case afterRequest =>
    intro a bits b zz rr noPlp touched names mem tests
    have hazard := requestHazard_of_touched (s := s.turnTaken) touched names mem tests
    have length : instrLength i = 3 := by obtain rfl | rfl := tests <;> rfl
    have present : mnemonic i = .mul ∨ mnemonic i = .div → s.product.hasMulDiv = true := by
      obtain rfl | rfl := tests <;> rintro (h | h) <;> cases h
    exact stops (fetchPermitted_of_requestHazard (s := s.turnTaken) hd hm noPlp (by omega) present hazard)
  case runs => exact fun permitted present => stepRunsDecoded s i turn running nothing hd hm present permitted

/-! ### What the stale requests record -/

theorem mem_staleBy {p : Product} {a : Addr} {old new : Byte} {k : IrqSource} :
    k ∈ staleBy p a old new ↔ k ∈ p.irqSources ∧ k.reqAddr = a ∧ k.enAddr = a ∧
      old.getLsbD k.reqBit.val = true ∧ new.getLsbD k.reqBit.val = false ∧
      old.getLsbD k.enBit.val = false ∧ new.getLsbD k.enBit.val = true := by
  simp only [staleBy, List.mem_filter, Bool.and_eq_true, Bool.not_eq_true', decide_eq_true_eq, and_assoc]

theorem staleBy_self (p : Product) (a : Addr) (v : Byte) : staleBy p a v v = [] :=
  List.eq_nil_iff_forall_not_mem.mpr fun k mem => by
    obtain ⟨-, -, -, before, after, -⟩ := mem_staleBy.mp mem
    exact Bool.false_ne_true (after.symm.trans before)

/-- Every source whose two bits the way from `s` to `t` moved at once, from requesting and disabled to the opposite, is
recorded as stale. -/
def notesStale (s t : State) : Prop :=
  t.product = s.product ∧ ∀ a, staleBy s.product a (s.cell a) (t.cell a) ⊆ t.stale

section NotesStale

variable {s t u : State}

theorem notesStale_of_cell_eq (product : t.product = s.product) (cell : ∀ a, t.cell a = s.cell a) : notesStale s t :=
  ⟨product, fun a => by rw [cell a, staleBy_self]; exact List.nil_subset _⟩

theorem notesStale_begin (s : State) (n : Nat) : notesStale s (s.begin n) := notesStale_of_cell_eq rfl fun _ => rfl

/-- A write at an address not written before keeps the record. -/
theorem notesStale_written (h : notesStale s u) {a : Addr} (fresh : u.cell a = s.cell a) (w : WriteScope) (v : Byte) :
    notesStale s (u.written w a v) := by
  obtain ⟨product, noted⟩ := h
  refine ⟨(written_product u w a v).trans product, fun b => ?_⟩
  rw [written_stale, product]
  by_cases eq : b = a
  · rw [eq, fresh]
    exact List.subset_append_right ..
  · rw [written_cell u w a b v eq]
    exact List.subset_append_of_subset_left _ (noted b)

/-- The one write of an instruction is recorded. -/
theorem notesStale_begin_written (s : State) (n : Nat) (w : WriteScope) (a : Addr) (v : Byte) :
    notesStale s ((s.begin n).written w a v) := notesStale_written (notesStale_begin s n) rfl w v

/-! ### The shared operations record their writes -/

theorem writeDst_notesStale {n : Nat} {v : Byte} (h : writeDst v (s.begin n) = .next u) : notesStale s u := by
  obtain ⟨-, rfl⟩ | ⟨-, -, rfl⟩ := writeDst_eq_next.mp h
  · exact notesStale_begin s n
  · exact notesStale_begin_written s n ..

theorem storeOp_notesStale {m : AddrMode} {v : Byte} (h : storeOp m v s = .next t) : notesStale s t := by
  obtain ⟨ea, -, -, rfl⟩ := storeOp_eq_next.mp h
  exact notesStale_begin_written s _ ..

theorem loadDstOp_notesStale {o : Operand} (h : loadDstOp o s = .next t) : notesStale s t := by
  obtain ⟨m, u, -, dst, rfl⟩ := loadDstOp_eq_next.mp h
  have noted : notesStale s u := writeDst_notesStale dst
  exact noted

theorem logicOp_notesStale {f : Byte → Byte → Byte} {o : Operand} (h : logicOp f o s = .next t) : notesStale s t := by
  obtain ⟨m, a, u, -, -, dst, rfl⟩ := logicOp_eq_next.mp h
  have noted : notesStale s u := writeDst_notesStale dst
  exact noted

theorem arithOp_notesStale {f : State → Byte → Byte → Arith} {o : Operand} (h : arithOp f o s = .next t) :
    notesStale s t := by
  obtain ⟨m, a, u, -, -, dst, rfl⟩ := arithOp_eq_next.mp h
  have noted : notesStale s u := writeDst_notesStale dst
  exact noted

/-- A read-modify-write whose flags `fl` writes. -/
theorem modifyOp_notesStale {f : Byte → Byte} {fl : Byte → State → State} {g : Target}
    (hfl : ∀ v u, notesStale s u → notesStale s (fl v u)) (h : modifyOp f fl g s = .next t) : notesStale s t := by
  cases g with
  | acc => cases h; exact hfl _ _ (notesStale_begin s 1)
  | mem m =>
    obtain ⟨ea, -, -, rfl⟩ := modifyOp_mem_eq_next.mp h
    exact hfl _ _ (notesStale_begin_written s _ ..)

theorem modifyNZ_notesStale {f : Byte → Byte} {g : Target} (h : modifyNZ f g s = .next t) : notesStale s t :=
  modifyOp_notesStale (fl := fun v u => u.setNZ (f v)) (fun _ _ noted => noted) h

theorem shiftOp_notesStale {f : Byte → Shifted} {g : Target} (h : shiftOp f g s = .next t) : notesStale s t :=
  modifyOp_notesStale (fl := fun v u => u.setShift (f v)) (fun _ _ noted => noted) h

theorem modifyBit_notesStale {f : Byte → Nat → Byte} {b : Nat} {zz : Byte} (h : modifyBit f b zz s = .next t) :
    notesStale s t := by
  obtain ⟨-, rfl⟩ := modifyBit_eq_next.mp h
  exact notesStale_begin_written s _ ..

theorem push_notesStale {v : Byte} (h : notesStale s u) (fresh : u.cell (u.slot 0) = s.cell (u.slot 0))
    (pushed : push v u = .next t) : notesStale s t := by
  obtain ⟨-, rfl⟩ := push_eq_next.mp pushed
  rw [slot_zero] at fresh
  exact notesStale_written h fresh .whole v

theorem push_begin_notesStale {n : Nat} {v : Byte} (pushed : push v (s.begin n) = .next t) : notesStale s t :=
  push_notesStale (notesStale_begin s n) rfl pushed

/-- A push moves the slots by one. -/
theorem push_slot {v : Byte} (h : push v s = .next t) (k : Nat) : t.slot k = s.slot (k + 1) := by
  obtain ⟨-, pushed⟩ := push_eq_next.mp h
  exact slot_of_push (by rw [pushed, putS_product, written_product]) (by rw [pushed, putS_sp]) k

/-- A push leaves every byte but the free slot's. -/
theorem push_cell {v : Byte} (h : push v s = .next t) {a : Addr} (ne : a ≠ s.slot 0) : t.cell a = s.cell a := by
  obtain ⟨-, rfl⟩ := push_eq_next.mp h
  rw [slot_zero] at ne
  exact written_cell s .whole _ a v ne

/-- The two pushes of JSR write two different slots. -/
theorem callOp_notesStale {n : Nat} (h : callOp n s = .next t) : notesStale s t := by
  obtain ⟨u, pushedHi, pushedLo⟩ := pushWord_eq_next.mp h
  refine push_notesStale (push_begin_notesStale pushedHi) ?fresh pushedLo
  case fresh =>
    rw [push_slot pushedHi]
    exact push_cell pushedHi (slot_zero_ne_slot_one (s.begin n)).symm

theorem multiplyOp_notesStale {p : Byte} (h : multiplyOp p s = .next t) : notesStale s t := by
  obtain ⟨m, -, h⟩ := andThen_eq_next.mp h
  obtain ⟨u, pushed, h⟩ := andThen_eq_next.mp h
  cases h
  have noted : notesStale s u := push_begin_notesStale pushed
  exact noted

theorem divideOp_notesStale {p : Byte} (h : divideOp p s = .next t) : notesStale s t := by
  obtain ⟨w, -, h⟩ := andThen_eq_next.mp h
  obtain ⟨u, pushed, h⟩ := andThen_eq_next.mp h
  cases h
  have noted : notesStale s u := push_begin_notesStale pushed
  exact noted

end NotesStale

/-! ### Every instruction records its writes -/

section Instructions

variable {i : Instr} {s t : State}

theorem Update.cell_eq {may : Effect → Prop} (h : Update may s t) (noStore : ¬may .memory) {a : Addr}
    (no : ¬may (.cell a)) : t.cell a = s.cell a := by
  cases h with
  | written w b v permit => exact absurd permit noStore
  | setCell b v permit =>
    have ne : b ≠ a := by rintro rfl; exact no permit
    rw [setCell_cell, if_neg ne]
  | _ => rfl

theorem exec_product (h : exec i s = .next t) : t.product = s.product := (exec_reaches_stepMay h).product_eq

/-- An instruction that is no writer of memory leaves every byte. -/
theorem exec_cell_eq (h : exec i s = .next t) (no : mnemonic i ∉ writers .memory) (a : Addr) : t.cell a = s.cell a := by
  obtain ⟨n, reached⟩ := exec_reaches h
  exact reached.keeps (P := fun u => u.cell a = s.cell a)
    (fun _ _ up eq => (up.cell_eq no (List.not_mem_nil : mnemonic i ∉ writers (.cell a))).trans eq) rfl

theorem execMulZpX_notesStale {zz : Byte} (h : execMulZpX zz s = .next t) : notesStale s t := by
  unfold execMulZpX at h
  split at h
  · exact multiplyOp_notesStale h
  · cases h

theorem execDivZpX_notesStale {zz : Byte} (h : execDivZpX zz s = .next t) : notesStale s t := by
  unfold execDivZpX at h
  split at h
  · exact divideOp_notesStale h
  · cases h

/-- A JSR makes its pushes, and what it does after them writes PC alone. -/
theorem exec_jsr_notesStale (jsr : mnemonic i = .jsr) (h : exec i s = .next t) : notesStale s t := by
  obtain ⟨n, u, target, -, called, rfl⟩ := exec_jsr_eq_next jsr h
  have noted : notesStale s u := callOp_notesStale called
  exact noted

/-- Every instruction but BRK, which clears the shadows at its end (R354), records the requests its writes leave stale. -/
theorem exec_notesStale (h : exec i s = .next t) (notBrk : i ≠ .brk) : notesStale s t := by
  by_cases writer : mnemonic i ∈ writers .memory
  case neg => exact notesStale_of_cell_eq (exec_product h) (exec_cell_eq h writer)
  cases i
  case brk => exact absurd rfl notBrk
  case ldaIndX | ldaZp | ldaImm | ldaAbs | ldaIndY | ldaZpX | ldaAbsY | ldaAbsX =>
    exact loadDstOp_notesStale ((exec_lda rfl s).symm.trans h)
  case ldmZp =>
    obtain ⟨-, rfl⟩ := writeByte_eq_next.mp ((exec_ldm rfl s).symm.trans h)
    exact notesStale_begin_written s 3 ..
  case staIndX | staZp | staAbs | staIndY | staZpX | staAbsY | staAbsX =>
    exact storeOp_notesStale ((exec_sta rfl s).symm.trans h)
  case stxZp | stxAbs | stxZpY => exact storeOp_notesStale ((exec_stx rfl s).symm.trans h)
  case styZp | styAbs | styZpX => exact storeOp_notesStale ((exec_sty rfl s).symm.trans h)
  case pha | php => exact push_begin_notesStale (n := 1) h
  case adcIndX | adcZp | adcImm | adcAbs | adcIndY | adcZpX | adcAbsY | adcAbsX =>
    exact arithOp_notesStale ((exec_adc rfl s).symm.trans h)
  case sbcIndX | sbcZp | sbcImm | sbcAbs | sbcIndY | sbcZpX | sbcAbsY | sbcAbsX =>
    exact arithOp_notesStale ((exec_sbc rfl s).symm.trans h)
  case incAcc | incZp | incAbs | incZpX | incAbsX => exact modifyNZ_notesStale ((exec_inc rfl s).symm.trans h)
  case decAcc | decZp | decAbs | decZpX | decAbsX => exact modifyNZ_notesStale ((exec_dec rfl s).symm.trans h)
  case mulZpX => exact execMulZpX_notesStale h
  case divZpX => exact execDivZpX_notesStale h
  case andIndX | andZp | andImm | andAbs | andIndY | andZpX | andAbsY | andAbsX =>
    exact logicOp_notesStale ((exec_and rfl s).symm.trans h)
  case oraIndX | oraZp | oraImm | oraAbs | oraIndY | oraZpX | oraAbsY | oraAbsX =>
    exact logicOp_notesStale ((exec_ora rfl s).symm.trans h)
  case eorIndX | eorZp | eorImm | eorAbs | eorIndY | eorZpX | eorAbsY | eorAbsX =>
    exact logicOp_notesStale ((exec_eor rfl s).symm.trans h)
  case comZp => exact modifyNZ_notesStale ((exec_com rfl s).symm.trans h)
  case aslZp | aslAcc | aslAbs | aslZpX | aslAbsX => exact shiftOp_notesStale ((exec_asl rfl s).symm.trans h)
  case lsrZp | lsrAcc | lsrAbs | lsrZpX | lsrAbsX => exact shiftOp_notesStale ((exec_lsr rfl s).symm.trans h)
  case rolZp | rolAcc | rolAbs | rolZpX | rolAbsX => exact shiftOp_notesStale ((exec_rol rfl s).symm.trans h)
  case rorZp | rorAcc | rorAbs | rorZpX | rorAbsX => exact shiftOp_notesStale ((exec_ror rfl s).symm.trans h)
  case rrfZp => exact modifyOp_notesStale (fun _ _ noted => noted) ((exec_rrf rfl s).symm.trans h)
  case clbAcc | sebAcc => cases h; exact notesStale_begin s 1
  case clbZp | sebZp => exact modifyBit_notesStale h
  case jsrZpInd | jsrAbs | jsrSp => exact exec_jsr_notesStale rfl h
  all_goals simp [mnemonic, shape, writers] at writer

/-- BRK masks the interrupts (R280). -/
theorem exec_brk_flag_i (h : exec .brk s = .next t) : t.flag .i = true := by
  have trap : execBrk s = .next t := h
  obtain ⟨u, w, target, -, rfl, -, rfl⟩ := takeInterrupt_eq_next.mp trap
  exact (setFlag_flag ..).trans (if_pos rfl)

/-- The CPU is not in Stop after an instruction that changes a byte. -/
theorem exec_runState_ne_stop (h : exec i s = .next t) (running : s.runState = .running) {a : Addr}
    (changed : t.cell a ≠ s.cell a) : t.runState ≠ .stop := by
  intro stopped
  have left : t.runState ≠ .running := by simp [stopped]
  refine changed (exec_cell_eq h ?_ a)
  obtain m | m := exec_leaves_running h running left <;> rw [m] <;> decide

end Instructions

/-! ### The stale request at the next boundary -/

/-- With I = 0 and outside Stop, a pending source is accepted unless one of a higher priority is (R310, R315). -/
theorem acceptable_of_pending {s : State} {k : IrqSource} (unmasked : s.flag .i = false)
    (awake : s.runState ≠ .stop) (pending : k ∈ s.pending) :
    ∃ j, s.acceptable = some j ∧ k.priority ≤ j.priority := by
  have candidate : k ∈ s.candidates := mem_candidates.mpr ⟨pending, fun stopped => absurd stopped awake⟩
  obtain ⟨j, highest⟩ := highestOf_isSome (List.ne_nil_of_mem candidate)
  exact ⟨j, (acceptable_of_unmasked unmasked).trans highest, (highestOf_eq_some highest).2 k candidate⟩

/-- An instruction that moves both bits of a source at once and leaves I = 0 leaves the source pending (R351, R322). -/
theorem pending_of_moved {i : Instr} {s t : State} {k : IrqSource} (h : exec i s = .next t)
    (source : k ∈ s.product.irqSources) (sameByte : k.reqAddr = k.enAddr)
    (requested : (s.cell k.reqAddr).getLsbD k.reqBit.val = true)
    (disabled : (s.cell k.reqAddr).getLsbD k.enBit.val = false)
    (cleared : (t.cell k.reqAddr).getLsbD k.reqBit.val = false)
    (enabled : (t.cell k.reqAddr).getLsbD k.enBit.val = true) (unmasked : t.flag .i = false) : k ∈ t.pending := by
  have notBrk : i ≠ .brk := by
    rintro rfl
    exact Bool.false_ne_true (unmasked.symm.trans (exec_brk_flag_i h))
  obtain ⟨product, noted⟩ := exec_notesStale h notBrk
  have stale : k ∈ t.stale :=
    noted k.reqAddr (mem_staleBy.mpr ⟨source, rfl, sameByte.symm, requested, cleared, disabled, enabled⟩)
  exact mem_pending.mpr ⟨product ▸ source, .inr stale⟩

/-- RAM and a control register hold a bit as it is written, but for a request bit written 1 (R75, R307). -/
theorem written_bit {s : State} {a : Addr} (kind : s.kind a = .control ∨ s.kind a = .ram) (w : WriteScope) (v : Byte)
    {j : Nat} (inByte : j < 8) (plain : j ∈ requestBitsAt s.product a → v.getLsbD j = false) :
    ((s.written w a v).cell a).getLsbD j = v.getLsbD j := by
  have held := holdsAt_written s w a v
  obtain control | ram := kind
  · rw [holdsAt, control] at held
    obtain ⟨-, bits⟩ := held
    exact bits j inByte fun request one => absurd (one.symm.trans (plain request)) (by decide)
  · rw [written_ram s w a v ram]

/-- Settles O59: whatever instruction moves the two bits records the source as stale, and LDM moves them by its operand. -/
theorem staleRequestAccepted : Obligations.StaleRequestAccepted := by
  intro s t k source sameByte _ requested disabled running
  have accepted (i : Instr) (h : exec i s = .next t) (cleared : (t.cell k.reqAddr).getLsbD k.reqBit.val = false)
      (enabled : (t.cell k.reqAddr).getLsbD k.enBit.val = true) (unmasked : t.flag .i = false) :
      k ∈ t.pending ∧ ∃ j, t.acceptable = some j ∧ k.priority ≤ j.priority := by
    have changed : t.cell k.reqAddr ≠ s.cell k.reqAddr := fun eq =>
      Bool.false_ne_true (cleared.symm.trans (eq ▸ requested))
    have pending := pending_of_moved h source sameByte requested disabled cleared enabled unmasked
    exact ⟨pending, acceptable_of_pending unmasked (exec_runState_ne_stop h running changed) pending⟩
  refine ⟨accepted, fun nn zz h address kind clears enables apart unmasked => ?_⟩
  obtain ⟨-, rfl⟩ := writeByte_eq_next.mp ((exec_ldm rfl s).symm.trans h)
  have noRequest : k.enBit.val ∉ requestBitsAt s.product (zext16 zz) := by
    simp only [requestBitsAt, List.mem_map, List.mem_filter, decide_eq_true_eq, not_exists, not_and, and_imp]
    exact fun j mem at_ eq => apart j mem at_ (Fin.ext eq)
  have cleared := (written_bit (s := s.begin 3) kind .whole nn k.reqBit.isLt fun _ => clears).trans clears
  have enabled := (written_bit (s := s.begin 3) kind .whole nn k.enBit.isLt (absurd · noRequest)).trans enables
  exact ⟨cleared, accepted _ h (address ▸ cleared) (address ▸ enabled) ((written_flag ..).trans unmasked)⟩

end Sys2Proof.Machine
